-- ==== Sys2Proof/Word.lean ====
section
/-! DEFINITION. The word types of the block and their plainest arithmetic (spec/00_scope.md R10 to R12). -/

namespace Sys2Proof

/-- A u32: a CSR, the host port's data, the key. -/
abbrev Word := BitVec 32

/-- A u8: one cell of IBUF, of OBUF or of the container. -/
abbrev Byte := BitVec 8

/-- A u9: one symbol of the alphabet (30 R56). -/
abbrev Sym := BitVec 9

/-- A u12: the offset field, which holds `offset - 2` (30 R60). -/
abbrev Off12 := BitVec 12

/-- `addr[29:0]`, the byte offset inside a region of the host address (20 R38). -/
abbrev Off30 := BitVec 30

/-- `ceil_div(a, b) = (a + b - 1) // b` (00 R11). -/
def ceilDiv (a b : Nat) : Nat := (a + b - 1) / b

end Sys2Proof
end

