-- ==== Sys2Proof/Config.lean ====
section
/-! DEFINITION. What a build of the block fixes (the two buffer sizes) and the free values of the spec. -/

namespace Sys2Proof

/-- The two open parameters of the model (00 R8, decision D6). They read back as CSRs 0x1C and 0x20 (10 R26). -/
structure Params where
  /-- `IBUF_SIZE`, in bytes. -/
  ibufSize : Word
  /-- `OBUF_SIZE`, in bytes. -/
  obufSize : Word
deriving DecidableEq, Repr

/-- The constraints of 00 R8: both sizes are multiples of 4, `4 <= IBUF_SIZE <= 2^30` and `544 <= OBUF_SIZE <= 2^30`. -/
def Params.wf (p : Params) : Bool :=
  decide (p.ibufSize.toNat % 4 = 0) && decide (4 ≤ p.ibufSize.toNat) && decide (p.ibufSize.toNat ≤ 2 ^ 30) &&
  decide (p.obufSize.toNat % 4 = 0) && decide (544 ≤ p.obufSize.toNat) && decide (p.obufSize.toNat ≤ 2 ^ 30)

/-- DESIGN CHOICE (log 1): the build that `State.reset` stands for. The spec leaves both sizes open; its test vectors
assume 4096 for each (95, L2.7 and L3). Every statement of the model is for every size. -/
def Config.params : Params := { ibufSize := 4096#32, obufSize := 4096#32 }

/-- A free value (log 2, log 3): the `n`-th byte that the hardware does not specify (`ANY`, 00 R13), drawn anew by each
host read of an OBUF byte that holds no container byte (20 R47, 93 I1) or of an IBUF byte never written (93 I2). It has
no body, so no proof can say which byte it is. -/
opaque Config.anyByte : Nat → Byte

/-- A free value (log 2, log 12): what byte `i` of IBUF holds after the `r`-th hardware reset until the host writes it,
as a RUN reads it (10 R27, decision D36, 93 I2: the initial contents are a parameter of the model). -/
opaque Config.ibufPowerOn : Nat → Nat → Byte

end Sys2Proof
end

