-- ==== Sys2Proof/Syntax.lean ====
section
/-! DEFINITION. The instructions: one constructor per row of spec/opcode_table.json. -/

namespace Sys2Proof

/-- Whether a host access reads or writes; only a write carries data (30 R66: DATA is ignored in a read). -/
inductive Access where
  | read
  | write (data : Word)
deriving DecidableEq, Repr

/-- The four quadrants of the host address, `addr[31:30]` (20 R38). -/
inductive Region where
  /-- 0b00, the control and status registers. -/
  | csr
  /-- 0b01, the input buffer. -/
  | ibuf
  /-- 0b10, the output buffer. -/
  | obuf
  /-- 0b11, reserved. -/
  | reserved
deriving DecidableEq, Repr

/-- The operations of the block: the 28 rows of the host access map (30 R69, with 30 R67 for CTRL) and the three
symbol rows of the output format (30 R57 to R59). -/
inductive Instr where
  /-- Row 1: any access with `REGION = 0b11` (60 R138). -/
  | accErrReservedRegion (acc : Access) (off : Off30)
  /-- Row 2: any access with `OFF[1:0] != 0` (60 R138). -/
  | accErrMisaligned (acc : Access) (region : Region) (off : Off30)
  /-- Row 3: an access to a CSR offset outside 0x00, 0x04, ..., 0x20 (60 R138). -/
  | accErrUnallocated (acc : Access) (off : Off30)
  /-- Row 4: an IBUF or OBUF access at or beyond the buffer's size (60 R138). -/
  | accErrOutOfRange (acc : Access) (region : Region) (off : Off30)
  /-- Row 5, offset 0x00 (40 R75). -/
  | rdId
  /-- Row 5, offset 0x04 (40 R75). -/
  | rdCtrl
  /-- Row 5, offset 0x08 (40 R75). -/
  | rdStatus
  /-- Row 5, offset 0x0C (40 R75). -/
  | rdKey
  /-- Row 5, offset 0x10 (40 R75). -/
  | rdSrcLen
  /-- Row 5, offset 0x14 (40 R75). -/
  | rdSymCount
  /-- Row 5, offset 0x18 (40 R75). -/
  | rdOutLen
  /-- Row 5, offset 0x1C (40 R75). -/
  | rdIbufSize
  /-- Row 5, offset 0x20 (40 R75). -/
  | rdObufSize
  /-- Row 6, offset 0x00 (40 R76). -/
  | wrRoId (data : Word)
  /-- Row 6, offset 0x14 (40 R76). -/
  | wrRoSymCount (data : Word)
  /-- Row 6, offset 0x18 (40 R76). -/
  | wrRoOutLen (data : Word)
  /-- Row 6, offset 0x1C (40 R76). -/
  | wrRoIbufSize (data : Word)
  /-- Row 6, offset 0x20 (40 R76). -/
  | wrRoObufSize (data : Word)
  /-- Row 7 with `DATA[1] = 1` (40 R79). -/
  | cmdSoftReset (data : Word)
  /-- Row 7 with `DATA[1:0] = 01` (40 R78). -/
  | cmdStart (data : Word)
  /-- Row 7 with `DATA[1:0] = 00` (40 R77). -/
  | wrCtrl (data : Word)
  /-- Row 8 (40 R80). -/
  | wrStatus (data : Word)
  /-- Row 9 (40 R81). -/
  | wrKey (data : Word)
  /-- Row 10 (40 R82). -/
  | wrSrcLen (data : Word)
  /-- Row 11 (40 R83). -/
  | rdIbuf (off : Off30)
  /-- Row 12 (40 R84). -/
  | wrIbuf (off : Off30) (data : Word)
  /-- Row 13 (40 R85). -/
  | rdObuf (off : Off30)
  /-- Row 14 (40 R86). -/
  | wrObuf (off : Off30) (data : Word)
  /-- A literal record: `R = 0`, the byte `V` (30 R57). -/
  | lit (v : Byte)
  /-- A backreference record: `R = 1`, `V` in 1..255 so `L = V + 2`, and the offset field `F` (30 R58, R60). -/
  | ref (v : Byte) (f : Off12)
  /-- Symbol 256, `L = 2`: in the alphabet, never emitted (30 R59). -/
  | refL2 (f : Off12)
deriving DecidableEq, Repr

/-- The two spellings an operation has: the 65-bit host access word (30 R66), or a symbol record of the output format,
SYM9 in bits 8:0 and then OFF12 in bits 20:9 (30 R55, R56, R60; numbering: log 9). -/
inductive CodeWord where
  | haw (w : BitVec 65)
  | record (w : BitVec 21)
deriving DecidableEq, Repr

end Sys2Proof
end

