-- ==== Sys2Proof/WellFormed.lean ====
section
/-! DEFINITION. Which instruction terms are words of the encoding: the selecting conditions of 30 R67 and R69 and of 30 R58. -/

namespace Sys2Proof

/-- `off` is a multiple of 4 (20 R43). -/
def wordAligned (off : Off30) : Bool := decide (off.toNat % 4 = 0)

/-- The size of the buffer behind a region; regions that are no buffer have none. -/
def Params.sizeOf (p : Params) : Region → Nat
  | .csr => 0
  | .ibuf => p.ibufSize.toNat
  | .obuf => p.obufSize.toNat
  | .reserved => 0

/-- An instruction term is well formed for a build when it satisfies the condition of its own row and of no row before
it in 30 R69. -/
def Instr.wf (p : Params) : Instr → Bool
  | .accErrReservedRegion _ _ => true
  | .accErrMisaligned _ r off => decide (r ≠ .reserved) && !wordAligned off
  | .accErrUnallocated _ off => wordAligned off && decide (0x20 < off.toNat)
  | .accErrOutOfRange _ r off =>
      (decide (r = .ibuf) || decide (r = .obuf)) && wordAligned off && decide (p.sizeOf r ≤ off.toNat)
  | .rdId => true
  | .rdCtrl => true
  | .rdStatus => true
  | .rdKey => true
  | .rdSrcLen => true
  | .rdSymCount => true
  | .rdOutLen => true
  | .rdIbufSize => true
  | .rdObufSize => true
  | .wrRoId _ => true
  | .wrRoSymCount _ => true
  | .wrRoOutLen _ => true
  | .wrRoIbufSize _ => true
  | .wrRoObufSize _ => true
  | .cmdSoftReset d => d.getLsbD 1
  | .cmdStart d => !d.getLsbD 1 && d.getLsbD 0
  | .wrCtrl d => !d.getLsbD 1 && !d.getLsbD 0
  | .wrStatus _ => true
  | .wrKey _ => true
  | .wrSrcLen _ => true
  | .rdIbuf off => wordAligned off && decide (off.toNat < p.ibufSize.toNat)
  | .wrIbuf off _ => wordAligned off && decide (off.toNat < p.ibufSize.toNat)
  | .rdObuf off => wordAligned off && decide (off.toNat < p.obufSize.toNat)
  | .wrObuf off _ => wordAligned off && decide (off.toNat < p.obufSize.toNat)
  | .lit _ => true
  | .ref v _ => decide (v ≠ 0#8)
  | .refL2 _ => true

end Sys2Proof
end

