-- ==== Sys2Proof/Decode.lean ====
section
/-! DEFINITION. Decoding of the host access word (30 R66, R67, R69) and of symbol records (30 R56 to R60), and the encoder
written from the same tables. -/

namespace Sys2Proof

/-- `REGION`, from `addr[31:30]` (20 R38). -/
def Region.ofBits (b : BitVec 2) : Region :=
  if b = 0b00#2 then .csr else if b = 0b01#2 then .ibuf else if b = 0b10#2 then .obuf else .reserved

/-- The bits of `REGION` (20 R38). -/
def Region.toBits : Region → BitVec 2
  | .csr => 0b00#2
  | .ibuf => 0b01#2
  | .obuf => 0b10#2
  | .reserved => 0b11#2

/-- Field `W` of the host access word, bit 64 (30 R66). -/
def hawW (w : BitVec 65) : Bool := w.getLsbD 64

/-- Field `REGION`, bits 63:62 (30 R66). -/
def hawRegion (w : BitVec 65) : Region := Region.ofBits (w.extractLsb' 62 2)

/-- Field `OFF`, bits 61:32 (30 R66). -/
def hawOff (w : BitVec 65) : Off30 := w.extractLsb' 32 30

/-- Field `DATA`, bits 31:0 (30 R66). -/
def hawData (w : BitVec 65) : Word := w.extractLsb' 0 32

/-- What the access does: DATA is write data, and is ignored in a read (30 R66). -/
def hawAccess (w : BitVec 65) : Access := if hawW w then .write (hawData w) else .read

/-- The host access word of an access (30 R66); DATA is 0 in a read. -/
def mkHaw (acc : Access) (r : Region) (off : Off30) : BitVec 65 :=
  match acc with
  | .read => (((0#1 ++ r.toBits) ++ off) ++ 0#32 : BitVec (1 + 2 + 30 + 32))
  | .write d => (((1#1 ++ r.toBits) ++ off) ++ d : BitVec (1 + 2 + 30 + 32))

/-- Row 7 with 30 R67: the command that the data bits of a CTRL write select. -/
def decodeCtrlWrite (d : Word) : Instr :=
  if d.getLsbD 1 then .cmdSoftReset d else if d.getLsbD 0 then .cmdStart d else .wrCtrl d

/-- Row 5: a read of the CSR at an aligned offset; any offset outside the nine is row 3 (30 R69, 10 R18). -/
def decodeCsrRead (off : Off30) : Instr :=
  if off = 0x00#30 then .rdId
  else if off = 0x04#30 then .rdCtrl
  else if off = 0x08#30 then .rdStatus
  else if off = 0x0C#30 then .rdKey
  else if off = 0x10#30 then .rdSrcLen
  else if off = 0x14#30 then .rdSymCount
  else if off = 0x18#30 then .rdOutLen
  else if off = 0x1C#30 then .rdIbufSize
  else if off = 0x20#30 then .rdObufSize
  else .accErrUnallocated .read off

/-- Rows 6 to 10: a write to the CSR at an aligned offset; any offset outside the nine is row 3 (30 R69, 10 R18). -/
def decodeCsrWrite (off : Off30) (d : Word) : Instr :=
  if off = 0x00#30 then .wrRoId d
  else if off = 0x04#30 then decodeCtrlWrite d
  else if off = 0x08#30 then .wrStatus d
  else if off = 0x0C#30 then .wrKey d
  else if off = 0x10#30 then .wrSrcLen d
  else if off = 0x14#30 then .wrRoSymCount d
  else if off = 0x18#30 then .wrRoOutLen d
  else if off = 0x1C#30 then .wrRoIbufSize d
  else if off = 0x20#30 then .wrRoObufSize d
  else .accErrUnallocated (.write d) off

/-- Rows 3, 5 to 10: an aligned access to the CSR region. -/
def decodeCsr (acc : Access) (off : Off30) : Instr :=
  match acc with
  | .read => decodeCsrRead off
  | .write d => decodeCsrWrite off d

/-- Rows 4, 11, 12: an aligned access to the IBUF region. -/
def decodeIbuf (p : Params) (acc : Access) (off : Off30) : Instr :=
  if p.ibufSize.toNat ≤ off.toNat then .accErrOutOfRange acc .ibuf off
  else match acc with
    | .read => .rdIbuf off
    | .write d => .wrIbuf off d

/-- Rows 4, 13, 14: an aligned access to the OBUF region. -/
def decodeObuf (p : Params) (acc : Access) (off : Off30) : Instr :=
  if p.obufSize.toNat ≤ off.toNat then .accErrOutOfRange acc .obuf off
  else match acc with
    | .read => .rdObuf off
    | .write d => .wrObuf off d

/-- `OFF[1:0] = 0` (30 R69 row 2, 20 R43). -/
def offAligned (off : Off30) : Bool := off.extractLsb' 0 2 == 0#2

/-- The host access map of 30 R69, first match: row 1, then row 2, then the rows of the access's region. Every
65-bit word matches some row. -/
def decodeHaw (p : Params) (w : BitVec 65) : Instr :=
  match hawRegion w with
  | .reserved => .accErrReservedRegion (hawAccess w) (hawOff w)
  | .csr =>
      if offAligned (hawOff w) then decodeCsr (hawAccess w) (hawOff w)
      else .accErrMisaligned (hawAccess w) .csr (hawOff w)
  | .ibuf =>
      if offAligned (hawOff w) then decodeIbuf p (hawAccess w) (hawOff w)
      else .accErrMisaligned (hawAccess w) .ibuf (hawOff w)
  | .obuf =>
      if offAligned (hawOff w) then decodeObuf p (hawAccess w) (hawOff w)
      else .accErrMisaligned (hawAccess w) .obuf (hawOff w)

/-- A symbol record (30 R56): `R` is bit 8, `V` bits 7:0. Only a backreference has an offset field, in bits 20:9; a
literal's record ends at bit 8 and what follows it is not read (30 R57, R62; log 9). -/
def decodeRecord (w : BitVec 21) : Instr :=
  if w.getLsbD 8 then
    if w.extractLsb' 0 8 = 0#8 then .refL2 (w.extractLsb' 9 12)
    else .ref (w.extractLsb' 0 8) (w.extractLsb' 9 12)
  else .lit (w.extractLsb' 0 8)

/-- The decoder: total on every code word. -/
def decode (p : Params) : CodeWord → Instr
  | .haw w => decodeHaw p w
  | .record w => decodeRecord w

/-- A symbol record's word: OFF12, then `R`, then `V`. -/
def mkRecord (f : Off12) (r : BitVec 1) (v : Byte) : BitVec 21 := ((f ++ r) ++ v : BitVec (12 + 1 + 8))

/-- The encoder: the code word of an instruction, from the tables of 30 R66 to R69 and 30 R56 to R60. -/
def encode : Instr → CodeWord
  | .accErrReservedRegion acc off => .haw (mkHaw acc .reserved off)
  | .accErrMisaligned acc r off => .haw (mkHaw acc r off)
  | .accErrUnallocated acc off => .haw (mkHaw acc .csr off)
  | .accErrOutOfRange acc r off => .haw (mkHaw acc r off)
  | .rdId => .haw (mkHaw .read .csr 0x00#30)
  | .rdCtrl => .haw (mkHaw .read .csr 0x04#30)
  | .rdStatus => .haw (mkHaw .read .csr 0x08#30)
  | .rdKey => .haw (mkHaw .read .csr 0x0C#30)
  | .rdSrcLen => .haw (mkHaw .read .csr 0x10#30)
  | .rdSymCount => .haw (mkHaw .read .csr 0x14#30)
  | .rdOutLen => .haw (mkHaw .read .csr 0x18#30)
  | .rdIbufSize => .haw (mkHaw .read .csr 0x1C#30)
  | .rdObufSize => .haw (mkHaw .read .csr 0x20#30)
  | .wrRoId d => .haw (mkHaw (.write d) .csr 0x00#30)
  | .wrRoSymCount d => .haw (mkHaw (.write d) .csr 0x14#30)
  | .wrRoOutLen d => .haw (mkHaw (.write d) .csr 0x18#30)
  | .wrRoIbufSize d => .haw (mkHaw (.write d) .csr 0x1C#30)
  | .wrRoObufSize d => .haw (mkHaw (.write d) .csr 0x20#30)
  | .cmdSoftReset d => .haw (mkHaw (.write d) .csr 0x04#30)
  | .cmdStart d => .haw (mkHaw (.write d) .csr 0x04#30)
  | .wrCtrl d => .haw (mkHaw (.write d) .csr 0x04#30)
  | .wrStatus d => .haw (mkHaw (.write d) .csr 0x08#30)
  | .wrKey d => .haw (mkHaw (.write d) .csr 0x0C#30)
  | .wrSrcLen d => .haw (mkHaw (.write d) .csr 0x10#30)
  | .rdIbuf off => .haw (mkHaw .read .ibuf off)
  | .wrIbuf off d => .haw (mkHaw (.write d) .ibuf off)
  | .rdObuf off => .haw (mkHaw .read .obuf off)
  | .wrObuf off d => .haw (mkHaw (.write d) .obuf off)
  | .lit v => .record (mkRecord 0#12 0#1 v)
  | .ref v f => .record (mkRecord f 1#1 v)
  | .refL2 f => .record (mkRecord f 1#1 0#8)

/-- The code word that a table row's bits stand for: the rows of 32 bits or fewer are the symbol records (9 or 21 bits),
the others are host access words (65 bits). A number too large for the word is no code word (log 9). -/
def codeWordOfBits (nbits w : Nat) : Option CodeWord :=
  if nbits ≤ 32 then (if w < 2 ^ 21 then some (.record (BitVec.ofNat 21 w)) else none)
  else if w < 2 ^ 65 then some (.haw (BitVec.ofNat 65 w)) else none

/-- The instruction the decoder reads from a table row's bits, for the build of `Config.params`. -/
def decodeTableWord (nbits w : Nat) : Option Instr := (codeWordOfBits nbits w).map (decode Config.params)

end Sys2Proof
end

