-- ==== Sys2Proof/Machine/Symbols.lean ====
section
/-! DEFINITION. The constants of spec/00_scope.md R7 and the symbol records of 30 R56 to R60 (10 R29). -/

namespace Sys2Proof.Machine

/-- `ALPHABET`: symbols 0..511 (00 R7). -/
def alphabet : Nat := 512

/-- `MIN_MATCH` (00 R7). -/
def minMatch : Nat := 3

/-- `MAX_MATCH` (00 R7). -/
def maxMatch : Nat := 257

/-- `MIN_OFFSET` (00 R7). -/
def minOffset : Nat := 2

/-- `MAX_OFFSET` (00 R7). -/
def maxOffset : Nat := 4097

/-- `OFFSET_BITS` (00 R7). -/
def offsetBits : Nat := 12

/-- `DEPTH_MAX` (00 R7). -/
def depthMax : Nat := 255

/-- `MAGIC` (00 R7, 41 R88). -/
def magic : Nat := 0x53440000

/-- `KS_STEPS` (00 R7). -/
def ksSteps : Nat := 512

/-- One Match record of the symbol sequence (10 R29): a literal byte, or a backreference with the fields `V = L - 2`
(30 R58) and `F = offset - 2` (30 R60). `V = 0` is symbol 256, which the match finder never emits (30 R59). -/
inductive Match where
  | lit (v : Byte)
  | ref (v : Byte) (f : Off12)
deriving DecidableEq, Repr

/-- The record's symbol, `sym = 256*R + V` (30 R56). -/
def Match.sym : Match → Sym
  | .lit v => (0#1 ++ v : BitVec (1 + 8))
  | .ref v _ => (1#1 ++ v : BitVec (1 + 8))

/-- The record's offset: NONE for a literal, `F + 2` for a backreference (10 R29, 30 R60). -/
def Match.off : Match → Option Nat
  | .lit _ => none
  | .ref _ f => some (f.toNat + minOffset)

/-- How many payload bytes the record covers: 1, or `L = V + 2` (30 R57, R58). -/
def Match.len : Match → Nat
  | .lit _ => 1
  | .ref v _ => v.toNat + 2

/-- Whether the record is a backreference, that is `sym >= 256` (30 R58). -/
def Match.isRef : Match → Bool
  | .lit _ => false
  | .ref _ _ => true

/-- The backreference record of a length and an offset: `symbol = 256 + (L - 2)`, offset field `offset - 2`
(30 R58, R60). -/
def Match.mkRef (len off : Nat) : Match := .ref (BitVec.ofNat 8 (len - 2)) (BitVec.ofNat 12 (off - minOffset))

end Sys2Proof.Machine
end

