-- ==== Sys2Proof/Machine/TreeBuilder.lean ====
section
/-! DEFINITION. huffman_tree_builder (spec/43_tree_builder.md). -/

namespace Sys2Proof.Machine

/-- `COUNT(S)` (43 R101): the 512 frequency counters, in symbol order. Offsets are not counted. -/
def count (s : List Match) : List Nat :=
  (List.range alphabet).map fun i => s.countP fun m => m.sym.toNat == i

/-- `freq[s]` of a frequency table. -/
def freqAt (freq : List Nat) (s : Nat) : Nat := freq.getD s 0

/-- A node of the tree arena (10 R31): its frequency, its creation-order id, and its symbol or its two children. -/
inductive Node where
  | leaf (freq id : Nat) (sym : Sym)
  | inner (freq id : Nat) (left right : Node)
deriving DecidableEq, Repr

/-- The node's frequency (10 R31). -/
def Node.freq : Node → Nat
  | .leaf f _ _ => f
  | .inner f _ _ _ => f

/-- The node's creation-order id (10 R31). -/
def Node.id : Node → Nat
  | .leaf _ i _ => i
  | .inner _ i _ _ => i

/-- The symbols with nonzero frequency, in ascending order. -/
def usedSymbols (freq : List Nat) : List Nat := (List.range alphabet).filter fun s => 0 < freqAt freq s

/-- `LEAVES` (43 R102): one leaf per symbol with nonzero frequency, in ascending symbol order; the j-th has id j. -/
def leaves (freq : List Nat) : List Node :=
  (usedSymbols freq).zipIdx.map fun sj => .leaf (freqAt freq sj.1) sj.2 (BitVec.ofNat 9 sj.1)

/-- The priority order on nodes (43 R103): lexicographic on `(freq, id)`. -/
def Node.precedes (a b : Node) : Bool := a.freq < b.freq || (a.freq == b.freq && a.id < b.id)

/-- The minimal node of `x` and a list under 43 R103, and the other nodes. -/
def popMin : Node → List Node → Node × List Node
  | x, [] => (x, [])
  | x, y :: ys =>
      if y.precedes x then ((popMin y ys).1, x :: (popMin y ys).2)
      else ((popMin x ys).1, y :: (popMin x ys).2)

/-- One iteration of `MERGE` (43 R104): the two minimal nodes leave the set and their parent, with the summed frequency
and a fresh id, joins it. A set of fewer than two nodes is left as it is. -/
def mergeOnce (nextId : Nat) : List Node → List Node
  | [] => []
  | x :: xs =>
      match (popMin x xs).2 with
      | [] => x :: xs
      | y :: ys =>
          .inner ((popMin x xs).1.freq + (popMin y ys).1.freq) nextId (popMin x xs).1 (popMin y ys).1 :: (popMin y ys).2

/-- `n` iterations of `MERGE` from an id. -/
def mergeTimes : (n nextId : Nat) → List Node → List Node
  | 0, _, q => q
  | n + 1, nextId, q => mergeTimes n (nextId + 1) (mergeOnce nextId q)

/-- `MERGE(Q)` (43 R104): exactly `k - 1` merges, the first parent's id being `k`. Its result holds the one root. -/
def merge (q : List Node) : List Node := mergeTimes (q.length - 1) q.length q

/-- `DEPTHS` (43 R106): each leaf's symbol with its distance from the root, the node itself being at distance `d`. -/
def rawDepths : Nat → Node → List (Sym × Nat)
  | d, .leaf _ _ s => [(s, d)]
  | d, .inner _ _ l r => rawDepths (d + 1) l ++ rawDepths (d + 1) r

/-- The raw depth of every used symbol. A lone root that is itself a leaf gets depth 1, not 0 (43 R107); an empty
alphabet has none (43 R108). -/
def rawDepthsOf (freq : List Nat) : List (Sym × Nat) :=
  match merge (leaves freq) with
  | [] => []
  | .leaf _ _ s :: _ => [(s, 1)]
  | .inner f i l r :: _ => rawDepths 0 (.inner f i l r)

/-- The clamp (43 R109): a raw depth above 255 is stored as 255. -/
def clampDepth (d : Nat) : Byte := if depthMax < d then 255#8 else BitVec.ofNat 8 d

/-- The depth table of raw depths (43 R108, R109): 0 for every symbol that has none. -/
def depthTable (raw : List (Sym × Nat)) : List Byte :=
  (List.range alphabet).map fun s =>
    match raw.find? fun sd => sd.1.toNat == s with
    | some sd => clampDepth sd.2
    | none => 0#8

/-- `depth[s]` of a depth table, as a number of bits. -/
def depthAt (depth : List Byte) (s : Nat) : Nat := (depth.getD s 0#8).toNat

/-- What `BUILD_DEPTHS` makes (43 R112): the depth table and whether a depth was clamped; and the arena it used. -/
structure Depths where
  arena : List Node
  depth : List Byte
  clamped : Bool
deriving DecidableEq, Repr

/-- `BUILD_DEPTHS` on a frequency table, the unit alone (43 R111, R112). -/
def buildFromFreq (freq : List Nat) : Depths where
  arena := merge (leaves freq)
  depth := depthTable (rawDepthsOf freq)
  clamped := (rawDepthsOf freq).any fun sd => depthMax < sd.2

/-- `BUILD_DEPTHS(S)` (43 R112). -/
def buildDepths (s : List Match) : Depths := buildFromFreq (count s)

end Sys2Proof.Machine
end

