-- ==== Sys2Proof/Machine/CanonicalCodes.lean ====
section
/-! DEFINITION. canonical_code_assigner (spec/44_canonical_codes.md). -/

namespace Sys2Proof.Machine

/-- The order of `CC_SORT` (44 R114): by depth first, then by symbol value. -/
abbrev ccLe (depth : List Byte) (a b : Nat) : Prop :=
  depthAt depth a < depthAt depth b ∨ (depthAt depth a = depthAt depth b ∧ a ≤ b)

/-- The symbols with `depth[s] > 0`, in ascending order. -/
def codedSymbols (depth : List Byte) : List Nat := (List.range alphabet).filter fun s => 0 < depthAt depth s

/-- `CC_SORT` (44 R114): the list `T`. -/
def ccSort (depth : List Byte) : List Nat := (codedSymbols depth).insertionSort (ccLe depth)

/-- The loop of `ASSIGN_CODES` (44 R115) from a running code and previous depth: each symbol with its code. The shift
never drops bits (exact naturals). -/
def assignFrom (depth : List Byte) : (code prev : Nat) → List Nat → List (Nat × Nat)
  | _, _, [] => []
  | code, prev, s :: t =>
      if prev < depthAt depth s then
        (s, code <<< (depthAt depth s - prev)) ::
          assignFrom depth (code <<< (depthAt depth s - prev) + 1) (depthAt depth s) t
      else (s, code) :: assignFrom depth (code + 1) prev t

/-- The symbols in coding order, each with its code (44 R115). -/
def assigned (depth : List Byte) : List (Nat × Nat) := assignFrom depth 0 0 (ccSort depth)

/-- The code table of assigned codes, in symbol order; a symbol that has none gets the entry 0. -/
def codeTable (codes : List (Nat × Nat)) : List Nat :=
  (List.range alphabet).map fun s =>
    match codes.find? fun sc => sc.1 == s with
    | some sc => sc.2
    | none => 0

/-- `ASSIGN_CODES` (44 R115): the code table; `len[s]` is `depth[s]` (10 R33), and a symbol of depth 0 has no code. -/
def assignCodes (depth : List Byte) : List Nat := codeTable (assigned depth)

/-- `code[s]` of a code table. -/
def codeAt (code : List Nat) (s : Nat) : Nat := code.getD s 0

end Sys2Proof.Machine
end

