-- ==== Sys2Proof/Machine/BitPacker.lean ====
section
/-! DEFINITION. bit_packer_huffman (spec/45_bit_packer.md). -/

namespace Sys2Proof.Machine

/-- `bits_msb_first(v, w)` (30 R61): the low `w` bits of `v`, highest first. -/
def bitsMsb (v : Nat) : Nat → List Bool
  | 0 => []
  | w + 1 => v.testBit w :: bitsMsb v w

/-- The number that bits spell, highest first. -/
def natOfBits (bits : List Bool) : Nat := bits.foldl (fun n b => 2 * n + b.toNat) 0

/-- The byte of eight bits, the first being bit 7 (45 R121). -/
def byteOfBits (bits : List Bool) : Byte := BitVec.ofNat 8 (natOfBits bits)

/-- The bit writer (10 R35): at most 7 pending bits, and the complete bytes written so far, first byte first. -/
structure BitWriter where
  acc : List Bool
  bytes : List Byte
deriving DecidableEq, Repr

/-- The bit writer at the start of a run: nothing written. -/
def BitWriter.empty : BitWriter := { acc := [], bytes := [] }

/-- The logical bit sequence `B` that the writer holds (45 R120): the bits of the complete bytes, bit 7 first (45 R121),
then the pending bits. -/
def BitWriter.stream (w : BitWriter) : List Bool := w.bytes.flatMap (fun b => bitsMsb b.toNat 8) ++ w.acc

/-- Appends one bit; the eighth pending bit completes a byte (45 R120, R121). -/
def BitWriter.pushBit (w : BitWriter) (b : Bool) : BitWriter :=
  if w.acc.length < 7 then { w with acc := w.acc ++ [b] }
  else { acc := [], bytes := w.bytes ++ [byteOfBits (w.acc ++ [b])] }

/-- `PUSH_BITS(value, width)` (45 R120): the low `width` bits of `value`, high bit first. -/
def BitWriter.pushBits (w : BitWriter) (value width : Nat) : BitWriter :=
  (bitsMsb value width).foldl BitWriter.pushBit w

/-- The offset field of a backreference: `off - 2` in 12 bits, right after its code (45 R122, R123). A literal has
none. -/
def pushOffset (w : BitWriter) : Match → BitWriter
  | .lit _ => w
  | .ref _ f => w.pushBits f.toNat offsetBits

/-- `PACK_MATCH` (45 R122): the record's code, then its offset field. -/
def packMatch (code : List Nat) (depth : List Byte) (w : BitWriter) (m : Match) : BitWriter :=
  pushOffset (w.pushBits (codeAt code m.sym.toNat) (depthAt depth m.sym.toNat)) m

/-- The bit writer after every record of `S`, before the flush (45 R125). -/
def packAll (code : List Nat) (depth : List Byte) (s : List Match) : BitWriter :=
  s.foldl (packMatch code depth) BitWriter.empty

/-- `FINISH` (45 R124): a partly filled last byte is left-justified and padded with 0 bits. -/
def BitWriter.finish (w : BitWriter) : List Byte :=
  if w.acc = [] then w.bytes
  else w.bytes ++ [byteOfBits (w.acc ++ List.replicate (8 - w.acc.length) false)]

/-- `PACK(S, code, depth)` (45 R125). -/
def pack (s : List Match) (code : List Nat) (depth : List Byte) : List Byte := (packAll code depth s).finish

/-- `TOKEN(sym, off)` (30 R61): the code's bits, then for a backreference the 12 bits of `off - 2`. -/
def token (code : List Nat) (depth : List Byte) : Match → List Bool
  | .lit v => bitsMsb (codeAt code (Match.lit v).sym.toNat) (depthAt depth (Match.lit v).sym.toNat)
  | .ref v f =>
      bitsMsb (codeAt code (Match.ref v f).sym.toNat) (depthAt depth (Match.ref v f).sym.toNat) ++
        bitsMsb f.toNat offsetBits

/-- The bits of one record's token (45 R125): its depth, and 12 more for a backreference. -/
def tokenBits (depth : List Byte) (m : Match) : Nat :=
  depthAt depth m.sym.toNat + (if m.isRef then offsetBits else 0)

/-- `nbits` (45 R125): the total number of token bits. -/
def nbits (depth : List Byte) (s : List Match) : Nat := (s.map (tokenBits depth)).sum

end Sys2Proof.Machine
end

