-- ==== Sys2Proof/Machine/Work.lean ====
section
/-! DEFINITION. The internal working state of a run (spec/10_state.md section 5, R29 to R35). -/

namespace Sys2Proof.Machine

/-- The tables and engines of one run. They are not host-visible, and their values outside a run are unspecified and
unobservable (10 R15, 70 R158): nothing the host sees is computed from what a past run left here (log 8). -/
structure Work where
  /-- The match finder's position (10 R17, 42 R97). -/
  pos : Nat
  /-- The symbol sequence `S` (10 R29). -/
  symbols : List Match
  /-- The frequency table (10 R30). -/
  freq : List Nat
  /-- The tree arena, each node holding its children (10 R31). -/
  arena : List Node
  /-- The depth table (10 R32), which is also the `len` column of the code table (10 R33). -/
  depth : List Byte
  /-- Whether a depth was clamped (43 R112). -/
  clamped : Bool
  /-- The code table (10 R33). -/
  code : List Nat
  /-- The keystream state (10 R34). -/
  ksState : Word
  /-- The bit writer (10 R35). -/
  writer : BitWriter
deriving DecidableEq, Repr

/-- DESIGN CHOICE (log 8): the working state before any run, every table zero or empty. The spec leaves it unspecified
and unobservable. -/
def Work.initial : Work where
  pos := 0
  symbols := []
  freq := List.replicate alphabet 0
  arena := []
  depth := List.replicate alphabet 0#8
  clamped := false
  code := List.replicate alphabet 0
  ksState := 0#32
  writer := BitWriter.empty

end Sys2Proof.Machine
end

