-- ==== Sys2Proof/Machine/State.lean ====
section
/-! DEFINITION. The state of the block (spec/10_state.md), the outcomes of a step, and hardware reset (70 R158). -/

namespace Sys2Proof.Machine

/-- Nothing in the spec stops the block: a failing access is answered ERR (60 R138), a failing run ends with ERROR set
(60 R139), and both are next states. So there is no fault to raise (log 15); a claim that no fault happens is safe. -/
inductive Fault where
deriving DecidableEq, Repr

/-- Why a step gives no next state. -/
inductive Refusal where
  /-- Raised only by an arm of `exec` for an instruction without a meaning. Safe: the model stops where the block would
  go on. No arm raises it. -/
  | notModelled (mnemonic : String)
deriving DecidableEq, Repr

/-- What the host port shows of the last access (20 R37, 40 R73). A field of the model, not of the spec (log 4). -/
inductive Response where
  /-- No access has completed since reset. -/
  | none
  /-- OKAY to a write. -/
  | okay
  /-- OKAY to a read, with its data. -/
  | okayData (data : Word)
  /-- ERR, with the read data the port shows (0 by 20 R37). -/
  | err (data : Word)
deriving DecidableEq, Repr

/-- What happens next at the block (log 5). -/
inductive Event where
  /-- The host issues an access, or a symbol record is presented to the bit packer (log 7). -/
  | issue (c : CodeWord)
  /-- The engine's turn: the completion step, if it is enabled (46 R136). -/
  | engine
  /-- The hardware reset input is asserted (70 R156). -/
  | hardReset
deriving DecidableEq, Repr

/-- Buffer contents: (index, byte) pairs with strictly rising indices. An index that is not listed holds a byte the spec
does not specify (`ANY`), so it has no value that a listed byte could equal. -/
abbrev Memory := List Host.Cell

/-- The state of the block: the CSR file, the two buffers (10 R15), the internal working state of a run (10 section 5),
and the model's own fields. -/
structure State where
  /-- IBUF_SIZE and OBUF_SIZE (10 R26, 00 R8; log 1). -/
  params : Params
  /-- CTRL.IRQ_EN (10 R20). -/
  irqEn : Bool
  /-- STATUS.BUSY (10 R21). -/
  busy : Bool
  /-- STATUS.DONE (10 R21). -/
  done : Bool
  /-- STATUS.ERROR (10 R21). -/
  error : Bool
  /-- STATUS.ACCERR (10 R21). -/
  accErr : Bool
  /-- STATUS.CLAMP (10 R21). -/
  clamp : Bool
  /-- STATUS.ERRCODE (10 R21). -/
  errCode : BitVec 4
  /-- KEY (10 R22). -/
  key : Word
  /-- SRC_LEN (10 R23). -/
  srcLen : Word
  /-- SYM_COUNT (10 R24). -/
  symCount : Word
  /-- OUT_LEN (10 R25). -/
  outLen : Word
  /-- IBUF (10 R27): the bytes the host has written since hardware reset. -/
  ibuf : Memory
  /-- OBUF (10 R28): the bytes the engine has written and no later event made unspecified. -/
  obuf : Memory
  /-- The internal working state (10 R29 to R35; log 8). -/
  work : Work
  /-- The model's own: the host port's last response (log 4). -/
  resp : Response
  /-- The model's own: what happens next, in order (log 5). -/
  agenda : List Event
  /-- The model's own: how many `ANY` bytes have been drawn (log 3). -/
  draws : Nat
  /-- The model's own: how many hardware resets have followed the first (log 12). -/
  resets : Nat
deriving DecidableEq, Repr

/-- The state after the first hardware reset of a build (70 R158), with nothing on the agenda. -/
def State.resetWith (p : Params) : State where
  params := p
  irqEn := false
  busy := false
  done := false
  error := false
  accErr := false
  clamp := false
  errCode := 0#4
  key := 0#32
  srcLen := 0#32
  symCount := 0#32
  outLen := 0#32
  ibuf := []
  obuf := []
  work := Work.initial
  resp := .none
  agenda := []
  draws := 0
  resets := 0

/-- The machine right after reset (70 R156, R158), for the build of `Config.params` (log 1). -/
def State.reset : State := State.resetWith Config.params

end Sys2Proof.Machine
end

