-- ==== Sys2Proof/Machine/Flags.lean ====
section
/-! DEFINITION. The flags of STATUS and CTRL and the interrupt line (spec/10_state.md R19 to R21, R36, spec/60_exceptions.md
R143). -/

namespace Sys2Proof.Machine

/-- The ID register's constant (10 R19). -/
def idValue : Word := 0x44534331#32

/-- One bit, or field, at a position of a CSR word. -/
def bitAt (b : Bool) (pos : Nat) : Word := (BitVec.ofNat 32 b.toNat) <<< pos

/-- What CTRL reads (10 R20): `zext_32(IRQ_EN << 2)`; START and SOFT_RESET read 0. -/
def State.ctrlWord (s : State) : Word := bitAt s.irqEn 2

/-- What STATUS reads (10 R21, 40 R75); the reserved bits read 0. -/
def State.statusWord (s : State) : Word :=
  bitAt s.busy 0 ||| bitAt s.done 1 ||| bitAt s.error 2 ||| bitAt s.accErr 3 ||| bitAt s.clamp 4 |||
    (s.errCode.setWidth 32 <<< 8)

/-- The interrupt line (60 R143): `irq = IRQ_EN AND (DONE OR ERROR)`. It is a function of the CSRs, so it is recomputed
after every step (10 R15); ACCERR is not routed to it. -/
def State.irq (s : State) : Bool := s.irqEn && (s.done || s.error)

end Sys2Proof.Machine
end

