-- ==== Sys2Proof/Machine/Memory.lean ====
section
/-! DEFINITION. The named operations over a buffer's contents (spec/20_memory.md R42, R46). -/

namespace Sys2Proof.Machine

/-- The listed byte at an index; none where the byte is unspecified. -/
def Memory.byteAt (m : Memory) (i : Nat) : Option Byte := (m.find? fun c => c.1 == i).map (·.2)

/-- The byte at an index, or a given byte where it is unspecified. -/
def Memory.byteOr (m : Memory) (i : Nat) (any : Byte) : Byte := (m.byteAt i).getD any

/-- Writes one byte, keeping the indices strictly rising. -/
def Memory.setByte : Memory → Nat → Byte → Memory
  | [], i, b => [(i, b)]
  | c :: m, i, b =>
      if i < c.1 then (i, b) :: c :: m
      else if i = c.1 then (i, b) :: m
      else c :: Memory.setByte m i b

/-- Byte lane `i` of a host word (20 R42): `data[8i+7 : 8i]`. -/
def laneOf (d : Word) (i : Nat) : Byte := d.extractLsb' (8 * i) 8

/-- The host word of four bytes, the first in bits 7:0 (20 R42, R46). -/
def wordOfLanes (b0 b1 b2 b3 : Byte) : Word := (((b3 ++ b2) ++ b1) ++ b0 : BitVec (8 + 8 + 8 + 8))

/-- `MemWrite(BUF, off, 4, v)` (20 R46): `BUF[off+i] <- v[8i+7:8i]` for `i = 0..3`. -/
def Memory.setWord (m : Memory) (off : Nat) (d : Word) : Memory :=
  (((m.setByte off (laneOf d 0)).setByte (off + 1) (laneOf d 1)).setByte (off + 2) (laneOf d 2)).setByte (off + 3)
    (laneOf d 3)

/-- The cells of consecutive bytes from an index. -/
def cellsFrom : Nat → List Byte → Memory
  | _, [] => []
  | i, b :: bs => (i, b) :: cellsFrom (i + 1) bs

/-- `BUF[0..len(C)) <- C` (46 R136): the bytes from 0, every byte beyond them as before (20 R48). -/
def Memory.setFront (m : Memory) (bytes : List Byte) : Memory :=
  cellsFrom 0 bytes ++ m.filter fun c => bytes.length ≤ c.1

/-- The canonical form: strictly rising indices, all below the buffer's size. -/
def Memory.wf (size : Nat) (m : Memory) : Bool :=
  decide (m.Pairwise fun a b => a.1 < b.1) && m.all fun c => decide (c.1 < size)

end Sys2Proof.Machine
end

