-- ==== Sys2Proof/Machine/Operands.lean ====
section
/-! DEFINITION. The operands of the host operations: the fields of a CTRL and of a STATUS write (spec/30_encoding.md R67, R68)
and the buffer index of an offset. -/

namespace Sys2Proof.Machine

/-- `DATA[2]` of a CTRL write: the new IRQ_EN (30 R67). -/
def ctrlIrqEn (d : Word) : Bool := d.getLsbD 2

/-- `DATA[1]` of a STATUS write clears DONE (30 R68). -/
def clearsDone (d : Word) : Bool := d.getLsbD 1

/-- `DATA[2]` of a STATUS write clears ERROR, and ERRCODE with it (30 R68, 40 R80). -/
def clearsError (d : Word) : Bool := d.getLsbD 2

/-- `DATA[3]` of a STATUS write clears ACCERR (30 R68). -/
def clearsAccErr (d : Word) : Bool := d.getLsbD 3

/-- The byte index of a buffer offset (20 R38). -/
def bufIndex (off : Off30) : Nat := off.toNat

end Sys2Proof.Machine
end

