-- ==== Sys2Proof/Machine/Ops.lean ====
section
/-! DEFINITION. The shared operations of the host operations: responses, the two kinds of error entry and their acknowledgement,
buffer accesses, and the two resets. -/

namespace Sys2Proof.Machine

/-- The OKAY response to a write (40 R73). -/
def State.respondOkay (s : State) : State := { s with resp := .okay }

/-- The OKAY response to a read, with its result (40 R73). -/
def State.respondData (s : State) (d : Word) : State := { s with resp := .okayData d }

/-- The reasons of an AccessError (60 R138). -/
inductive AccessReason where
  | reservedRegion
  | misaligned
  | unallocated
  | outOfRange
  | roWrite
  | busyWrite
deriving DecidableEq, Repr

/-- Raising an AccessError (60 R138, 40 R73): ACCERR is set, which is the only change of state, and the access is answered
ERR with read data 0. The block records neither the reason nor the address nor the data, so the reason has no effect. -/
def State.accessError (s : State) (_reason : AccessReason) : State :=
  { s with accErr := true, resp := .err 0#32 }

/-- A RunError (60 R139): OBUF_OVERFLOW comes with the run's symbol count and the container length it would have had. -/
inductive RunError where
  | lenRange
  | obufOverflow (symCount len : Nat)
deriving DecidableEq, Repr

/-- The error's code (60 R139, 00 R9). -/
def RunError.code : RunError → BitVec 4
  | .lenRange => 1#4
  | .obufOverflow _ _ => 2#4

/-- What the error leaves in SYM_COUNT (60 R139). -/
def RunError.symCount : RunError → Nat
  | .lenRange => 0
  | .obufOverflow m _ => m

/-- What the error leaves in OUT_LEN (60 R139). -/
def RunError.outLen : RunError → Nat
  | .lenRange => 0
  | .obufOverflow _ n => n

/-- Raising a RunError (60 R139): it ends the run, and every OBUF byte becomes unspecified. -/
def State.runError (s : State) (e : RunError) : State :=
  { s with
    busy := false
    error := true
    errCode := e.code
    done := false
    clamp := false
    symCount := BitVec.ofNat 32 e.symCount
    outLen := BitVec.ofNat 32 e.outLen
    obuf := [] }

/-- Acknowledging events and errors (60 R148, 40 R80): each W1C bit written as 1 is cleared, ERRCODE with ERROR. -/
def State.acknowledge (s : State) (d : Word) : State :=
  { s with
    done := s.done && !clearsDone d
    error := s.error && !clearsError d
    errCode := if clearsError d then 0#4 else s.errCode
    accErr := s.accErr && !clearsAccErr d }

/-- The BUSY guard (40 R74): while a run is in progress the operation raises BUSY_WRITE and changes nothing else. -/
def State.unlessBusy (s : State) (t : State) : State := if s.busy then s.accessError .busyWrite else t

/-- `SoftReset()` (70 R157): every CSR to its reset value, any run abandoned, IBUF unchanged, OBUF unspecified, the internal
working state discarded. -/
def State.softReset (s : State) : State :=
  { s with
    irqEn := false
    key := 0#32
    srcLen := 0#32
    busy := false
    done := false
    error := false
    accErr := false
    clamp := false
    errCode := 0#4
    symCount := 0#32
    outLen := 0#32
    obuf := []
    work := Work.initial }

/-- Hardware reset (70 R156, R158), as an event: the state after reset for the same build, with IBUF unspecified anew
(log 12). What is still on the agenda stays there. -/
def State.hardReset (s : State) : State :=
  { State.resetWith s.params with agenda := s.agenda, draws := s.draws, resets := s.resets + 1 }

/-- The free byte of lane `i` of the next buffer read (log 3). -/
def State.anyLane (s : State) (i : Nat) : Byte := Config.anyByte (s.draws + i)

/-- A byte of IBUF as a host read sees it (40 R83): a byte never written since hardware reset reads `ANY`. -/
def State.ibufLane (s : State) (off i : Nat) : Byte := s.ibuf.byteOr (off + i) (s.anyLane i)

/-- `MemRead(IBUF, off, 4)` (20 R46). -/
def State.ibufWord (s : State) (off : Nat) : Word :=
  wordOfLanes (s.ibufLane off 0) (s.ibufLane off 1) (s.ibufLane off 2) (s.ibufLane off 3)

/-- A byte of OBUF as a host read sees it (20 R47): the container byte if DONE = 1 and the index is below OUT_LEN, else
`ANY`. -/
def State.obufLane (s : State) (off i : Nat) : Byte :=
  if s.done && decide (off + i < s.outLen.toNat) then s.obuf.byteOr (off + i) (s.anyLane i) else s.anyLane i

/-- `MemRead(OBUF, off, 4)` (20 R46, each byte subject to 20 R47). -/
def State.obufWord (s : State) (off : Nat) : Word :=
  wordOfLanes (s.obufLane off 0) (s.obufLane off 1) (s.obufLane off 2) (s.obufLane off 3)

/-- A buffer read answers its word and uses up four draws of free bytes, so that no two reads share one (93 I1, I2). -/
def State.respondBuffer (s : State) (d : Word) : State := { s with resp := .okayData d, draws := s.draws + 4 }

/-- A byte of IBUF as a run reads it (log 2): the byte written, or the power-on contents. -/
def State.ibufByte (s : State) (i : Nat) : Byte := s.ibuf.byteOr i (Config.ibufPowerOn s.resets i)

end Sys2Proof.Machine
end

