-- ==== Sys2Proof/Machine/HostErrors.lean ====
section
/-! DEFINITION. The host accesses that always end in an AccessError: rows 1 to 4, 6 and 14 of 30 R69. -/

namespace Sys2Proof.Machine

/-- What a meaning answers: every host operation completes. -/
abbrev Result := Host.Outcome State Fault Refusal

/-- Row 1 (60 R138). -/
def execAccErrReservedRegion (_acc : Access) (_off : Off30) (s : State) : Result := .next (s.accessError .reservedRegion)

/-- Row 2 (60 R138, 20 R43). -/
def execAccErrMisaligned (_acc : Access) (_r : Region) (_off : Off30) (s : State) : Result :=
  .next (s.accessError .misaligned)

/-- Row 3 (60 R138, 10 R18). -/
def execAccErrUnallocated (_acc : Access) (_off : Off30) (s : State) : Result := .next (s.accessError .unallocated)

/-- Row 4 (60 R138, 20 R38). -/
def execAccErrOutOfRange (_acc : Access) (_r : Region) (_off : Off30) (s : State) : Result :=
  .next (s.accessError .outOfRange)

/-- A write to ID (40 R76). -/
def execWrRoId (_d : Word) (s : State) : Result := .next (s.accessError .roWrite)

/-- A write to SYM_COUNT (40 R76). -/
def execWrRoSymCount (_d : Word) (s : State) : Result := .next (s.accessError .roWrite)

/-- A write to OUT_LEN (40 R76). -/
def execWrRoOutLen (_d : Word) (s : State) : Result := .next (s.accessError .roWrite)

/-- A write to IBUF_SIZE (40 R76). -/
def execWrRoIbufSize (_d : Word) (s : State) : Result := .next (s.accessError .roWrite)

/-- A write to OBUF_SIZE (40 R76). -/
def execWrRoObufSize (_d : Word) (s : State) : Result := .next (s.accessError .roWrite)

/-- A write to OBUF, which only the engine writes (40 R86). -/
def execWrObuf (_off : Off30) (_d : Word) (s : State) : Result := .next (s.accessError .roWrite)

end Sys2Proof.Machine
end

