-- ==== Sys2Proof/Machine/Buffers.lean ====
section
/-! DEFINITION. The buffer accesses (spec/40_host_interface.md R83 to R85). -/

namespace Sys2Proof.Machine

/-- `RD_IBUF` (40 R83): allowed while BUSY = 1. -/
def execRdIbuf (off : Off30) (s : State) : Result := .next (s.respondBuffer (s.ibufWord (bufIndex off)))

/-- `WR_IBUF` (40 R84): refused while a run is in progress. -/
def execWrIbuf (off : Off30) (d : Word) (s : State) : Result :=
  .next (s.unlessBusy { s with ibuf := s.ibuf.setWord (bufIndex off) d }.respondOkay)

/-- `RD_OBUF` (40 R85): container bytes where DONE = 1 and the index is below OUT_LEN, `ANY` elsewhere (20 R47). -/
def execRdObuf (off : Off30) (s : State) : Result := .next (s.respondBuffer (s.obufWord (bufIndex off)))

end Sys2Proof.Machine
end

