-- ==== Sys2Proof/Machine/Commands.lean ====
section
/-! DEFINITION. The writes to CTRL, STATUS, KEY and SRC_LEN (spec/40_host_interface.md R77 to R82). -/

namespace Sys2Proof.Machine

/-- An accepted START (40 R78): the previous results are cleared and the completion step is enabled. ACCERR stays. -/
def State.startRun (s : State) (d : Word) : State :=
  { s with
    irqEn := ctrlIrqEn d
    done := false
    error := false
    errCode := 0#4
    clamp := false
    symCount := 0#32
    outLen := 0#32
    busy := true }

/-- `WR_CTRL` (40 R77): the interrupt enable; allowed while BUSY = 1. -/
def execWrCtrl (d : Word) (s : State) : Result := .next { s with irqEn := ctrlIrqEn d }.respondOkay

/-- `CMD_START` (40 R78): refused while a run is in progress, and then IRQ_EN is not written. -/
def execCmdStart (d : Word) (s : State) : Result := .next (s.unlessBusy (s.startRun d).respondOkay)

/-- `CMD_SOFT_RESET` (40 R79): allowed in every state; the other data bits, START among them, are ignored (60 R144). -/
def execCmdSoftReset (_d : Word) (s : State) : Result := .next s.softReset.respondOkay

/-- `WR_STATUS` (40 R80): clears the W1C bits written as 1. Writing to BUSY, CLAMP or ERRCODE does nothing. -/
def execWrStatus (d : Word) (s : State) : Result := .next (s.acknowledge d).respondOkay

/-- `WR_KEY` (40 R81): refused while a run is in progress. -/
def execWrKey (d : Word) (s : State) : Result := .next (s.unlessBusy { s with key := d }.respondOkay)

/-- `WR_SRC_LEN` (40 R82): refused while a run is in progress; any value is accepted. -/
def execWrSrcLen (d : Word) (s : State) : Result := .next (s.unlessBusy { s with srcLen := d }.respondOkay)

end Sys2Proof.Machine
end

