-- ==== Sys2Proof/Machine/CsrReads.lean ====
section
/-! DEFINITION. `RD_CSR` (spec/40_host_interface.md R75), one meaning per register. Allowed while BUSY = 1; no side effects. -/

namespace Sys2Proof.Machine

/-- ID (10 R19). -/
def execRdId (s : State) : Result := .next (s.respondData idValue)

/-- CTRL (10 R20). -/
def execRdCtrl (s : State) : Result := .next (s.respondData s.ctrlWord)

/-- STATUS (10 R21). -/
def execRdStatus (s : State) : Result := .next (s.respondData s.statusWord)

/-- KEY (10 R22). -/
def execRdKey (s : State) : Result := .next (s.respondData s.key)

/-- SRC_LEN (10 R23). -/
def execRdSrcLen (s : State) : Result := .next (s.respondData s.srcLen)

/-- SYM_COUNT (10 R24). -/
def execRdSymCount (s : State) : Result := .next (s.respondData s.symCount)

/-- OUT_LEN (10 R25). -/
def execRdOutLen (s : State) : Result := .next (s.respondData s.outLen)

/-- IBUF_SIZE (10 R26). -/
def execRdIbufSize (s : State) : Result := .next (s.respondData s.params.ibufSize)

/-- OBUF_SIZE (10 R26). -/
def execRdObufSize (s : State) : Result := .next (s.respondData s.params.obufSize)

end Sys2Proof.Machine
end

