-- ==== Sys2Proof/Machine/Records.lean ====
section
/-! DEFINITION. The symbol records of the output format (spec/30_encoding.md R57 to R61), as the bit packer consumes them
(spec/45_bit_packer.md R122; log 7). The completion step runs the same operation on each record of `S`. -/

namespace Sys2Proof.Machine

/-- `PACK_MATCH` on the working state (45 R122): `TOKEN(sym, off)` (30 R61) joins the bit writer, with the code and depth
tables as they stand; nothing else changes. A symbol of depth 0 has no code bits (log 11). -/
def State.packRecord (s : State) (m : Match) : State :=
  { s with work := { s.work with writer := packMatch s.work.code s.work.depth s.work.writer m } }

/-- LIT (30 R57): the token is the code alone. -/
def execLit (v : Byte) (s : State) : Result := .next (s.packRecord (.lit v))

/-- REF (30 R58, R60): the code, then the offset field. -/
def execRef (v : Byte) (f : Off12) (s : State) : Result := .next (s.packRecord (.ref v f))

/-- REF_L2 (30 R59): symbol 256 is a legal symbol, with its entries in the tables; the encoder never emits it. -/
def execRefL2 (f : Off12) (s : State) : Result := .next (s.packRecord (.ref 0#8 f))

end Sys2Proof.Machine
end

