-- ==== Sys2Proof/Machine/Dispatch.lean ====
section
/-! DEFINITION. One meaning per row of the opcode table. -/

namespace Sys2Proof.Machine

def exec (i : Instr) (s : State) : Host.Outcome State Fault Refusal :=
  match i with
  | .accErrReservedRegion acc off => Sys2Proof.Machine.execAccErrReservedRegion acc off s
  | .accErrMisaligned acc r off => Sys2Proof.Machine.execAccErrMisaligned acc r off s
  | .accErrUnallocated acc off => Sys2Proof.Machine.execAccErrUnallocated acc off s
  | .accErrOutOfRange acc r off => Sys2Proof.Machine.execAccErrOutOfRange acc r off s
  | .rdId => Sys2Proof.Machine.execRdId s
  | .rdCtrl => Sys2Proof.Machine.execRdCtrl s
  | .rdStatus => Sys2Proof.Machine.execRdStatus s
  | .rdKey => Sys2Proof.Machine.execRdKey s
  | .rdSrcLen => Sys2Proof.Machine.execRdSrcLen s
  | .rdSymCount => Sys2Proof.Machine.execRdSymCount s
  | .rdOutLen => Sys2Proof.Machine.execRdOutLen s
  | .rdIbufSize => Sys2Proof.Machine.execRdIbufSize s
  | .rdObufSize => Sys2Proof.Machine.execRdObufSize s
  | .wrRoId d => Sys2Proof.Machine.execWrRoId d s
  | .wrRoSymCount d => Sys2Proof.Machine.execWrRoSymCount d s
  | .wrRoOutLen d => Sys2Proof.Machine.execWrRoOutLen d s
  | .wrRoIbufSize d => Sys2Proof.Machine.execWrRoIbufSize d s
  | .wrRoObufSize d => Sys2Proof.Machine.execWrRoObufSize d s
  | .cmdSoftReset d => Sys2Proof.Machine.execCmdSoftReset d s
  | .cmdStart d => Sys2Proof.Machine.execCmdStart d s
  | .wrCtrl d => Sys2Proof.Machine.execWrCtrl d s
  | .wrStatus d => Sys2Proof.Machine.execWrStatus d s
  | .wrKey d => Sys2Proof.Machine.execWrKey d s
  | .wrSrcLen d => Sys2Proof.Machine.execWrSrcLen d s
  | .rdIbuf off => Sys2Proof.Machine.execRdIbuf off s
  | .wrIbuf off d => Sys2Proof.Machine.execWrIbuf off d s
  | .rdObuf off => Sys2Proof.Machine.execRdObuf off s
  | .wrObuf off d => Sys2Proof.Machine.execWrObuf off d s
  | .lit v => Sys2Proof.Machine.execLit v s
  | .ref v f => Sys2Proof.Machine.execRef v f s
  | .refL2 f => Sys2Proof.Machine.execRefL2 f s

end Sys2Proof.Machine
end

