-- ==== Sys2Proof/Machine/Keystream.lean ====
section
/-! DEFINITION. keystream_obfuscator (spec/41_keystream.md). -/

namespace Sys2Proof.Machine

/-- `KS_ADVANCE` (41 R87): exact arithmetic on naturals before each mask (00 R11). The next state, then the output byte. -/
def ksAdvance (state : Word) (magic : Nat) : Word × Byte :=
  let s := state.toNat
  let v0 := (20021 * (s &&& 0xFFFF)) &&& 0xFFFFFFFF
  let v1a := magic ||| (s >>> 16)
  let v1b := (v1a * 20021 + s * 346) &&& 0xFFFFFFFF
  let v1c := (v1b + (v0 >>> 16)) &&& 0xFFFF
  let next := ((v1c <<< 16) + (v0 &&& 0xFFFF) + 1) &&& 0xFFFFFFFF
  (BitVec.ofNat 32 next, BitVec.ofNat 8 (v1c &&& 0xFF))

/-- `n` keystream steps from a state: the last state and the bytes, first byte first (the loop of 41 R89). -/
def ksRun : Nat → Word → Word × List Byte
  | 0, s => (s, [])
  | n + 1, s =>
      let (s1, b) := ksAdvance s magic
      let (s2, bs) := ksRun n s1
      (s2, b :: bs)

/-- `KS_SEQ(K)` (41 R89): the 512 keystream bytes of a run. -/
def ksSeq (k : Word) : List Byte := (ksRun ksSteps k).2

/-- The keystream state after the 512 steps (10 R34); no output depends on it. -/
def ksFinal (k : Word) : Word := (ksRun ksSteps k).1

/-- `KS_ENCRYPT` (41 R90): addition modulo 256, entry by entry. -/
def ksEncrypt (depth ks : List Byte) : List Byte := List.zipWith (· + ·) depth ks

end Sys2Proof.Machine
end

