-- ==== Sys2Proof/Machine/MatchFinder.lean ====
section
/-! DEFINITION. lz77_match_finder unit (spec/42_match_finder.md). -/

namespace Sys2Proof.Machine

/-- The loop of `MATCH_LEN` (42 R92): how many of the next `lim` bytes at `a` equal those at `b`, stopping at the first
that differs. -/
def equalRun (p : List Byte) : (lim a b : Nat) → Nat
  | 0, _, _ => 0
  | lim + 1, a, b => if p[a]? = p[b]? then equalRun p lim (a + 1) (b + 1) + 1 else 0

/-- `MATCH_LEN(P, pos, off)` (42 R92): the limit is `min(257, n - pos)`, with no term in `off`, so the match may overlap
the bytes it produces (42 R98). -/
def matchLen (p : List Byte) (pos off : Nat) : Nat :=
  equalRun p (min maxMatch (p.length - pos)) pos (pos - off)

/-- The candidate offsets at a position (42 R93): from `min(pos, 4097)` down to 2, in that order. -/
def candidates (pos : Nat) : List Nat :=
  (List.range (min pos maxOffset - 1)).map fun i => min pos maxOffset - i

/-- One step of the scan of `BEST` (42 R94): a candidate replaces the best only with a strictly greater length. -/
def bestStep (p : List Byte) (pos : Nat) (best : Nat × Option Nat) (off : Nat) : Nat × Option Nat :=
  if best.1 < matchLen p pos off then (matchLen p pos off, some off) else best

/-- `BEST(P, pos)` (42 R94): the best length and its offset. -/
def best (p : List Byte) (pos : Nat) : Nat × Option Nat :=
  (candidates pos).foldl (bestStep p pos) (0, none)

/-- `EMIT` (42 R96): a backreference if the best length is at least 3, else the literal byte; and the advance. -/
def emit (p : List Byte) (pos : Nat) (b : Nat × Option Nat) : Match × Nat :=
  match b.2 with
  | some off => if minMatch ≤ b.1 then (Match.mkRef b.1 off, b.1) else (.lit (p.getD pos 0#8), 1)
  | none => (.lit (p.getD pos 0#8), 1)

/-- The loop of `FIND_MATCHES` (42 R97) from a position; it ends after at most `fuel` records. -/
def parseFrom (p : List Byte) : (fuel pos : Nat) → List Match
  | 0, _ => []
  | fuel + 1, pos =>
      if pos < p.length then
        (emit p pos (best p pos)).1 :: parseFrom p fuel (pos + (emit p pos (best p pos)).2)
      else []

/-- `FIND_MATCHES(P)` (42 R97): the greedy parse of the whole payload. It takes at most `n` records, since each covers
at least one byte. -/
def findMatches (p : List Byte) : List Match := parseFrom p p.length 0

end Sys2Proof.Machine
end

