-- ==== Sys2Proof/Machine/Container.lean ====
section
/-! DEFINITION. container_mux and the whole function `Encode` (spec/46_container_mux.md sections 1 and 2). -/

namespace Sys2Proof.Machine

/-- `u32le(v)` (00 R12): least significant byte first. -/
def u32le (v : Word) : List Byte :=
  [v.extractLsb' 0 8, v.extractLsb' 8 8, v.extractLsb' 16 8, v.extractLsb' 24 8]

/-- Container bytes 0x00..0x0F (46 R127): the ASCII string "DSC FORMAT 1.00" and one zero byte. -/
def tag : List Byte :=
  [0x44#8, 0x53#8, 0x43#8, 0x20#8, 0x46#8, 0x4F#8, 0x52#8, 0x4D#8,
   0x41#8, 0x54#8, 0x20#8, 0x31#8, 0x2E#8, 0x30#8, 0x30#8, 0x00#8]

/-- The 32-byte header (30 R64, 46 R127 to R131): tag, key, original size, symbol count, four zero bytes. -/
def header (k : Word) (size symCount : Nat) : List Byte :=
  tag ++ u32le k ++ u32le (BitVec.ofNat 32 size) ++ u32le (BitVec.ofNat 32 symCount) ++ u32le 0#32

/-- The six units of a run in their data flow (00 R3, 46 R135): the working state they leave. -/
def runUnits (p : List Byte) (k : Word) : Work :=
  let s := findMatches p
  let d := buildDepths s
  let code := assignCodes d.depth
  { pos := (s.map Match.len).sum
    symbols := s
    freq := count s
    arena := d.arena
    depth := d.depth
    clamped := d.clamped
    code := code
    ksState := ksFinal k
    writer := packAll code d.depth s }

/-- What `Encode` returns (46 R135). -/
structure Encoded where
  container : List Byte
  symCount : Nat
  clamped : Bool
deriving DecidableEq, Repr

/-- The container of a run's working state (46 R127 to R133): header, encrypted depth table, bitstream. -/
def assemble (p : List Byte) (k : Word) (w : Work) : List Byte :=
  header k p.length w.symbols.length ++ ksEncrypt w.depth (ksSeq k) ++ w.writer.finish

/-- `Encode(P, K)` (46 R135). -/
def encodePayload (p : List Byte) (k : Word) : Encoded where
  container := assemble p k (runUnits p k)
  symCount := (runUnits p k).symbols.length
  clamped := (runUnits p k).clamped

end Sys2Proof.Machine
end

