-- ==== Sys2Proof/Machine/Engine.lean ====
section
/-! DEFINITION. The engine's completion step (spec/46_container_mux.md section 3) and the order of the agents' steps (log 5). -/

namespace Sys2Proof.Machine

/-- The payload of the run (10 R23): `IBUF[0..SRC_LEN)`. -/
def State.payload (s : State) : List Byte := (List.range s.srcLen.toNat).map s.ibufByte

/-- The successful end of a run (46 R136): the container enters OBUF, its counts the CSRs, and DONE is set. -/
def State.finishRun (s : State) (e : Encoded) : State :=
  { s with
    obuf := s.obuf.setFront e.container
    symCount := BitVec.ofNat 32 e.symCount
    outLen := BitVec.ofNat 32 e.container.length
    clamp := e.clamped
    busy := false
    done := true }

/-- The run's end with its container computed (46 R136): OBUF_OVERFLOW if it does not fit, else success. -/
def State.deliver (s : State) (e : Encoded) : State :=
  if s.params.obufSize.toNat < e.container.length then s.runError (.obufOverflow e.symCount e.container.length)
  else s.finishRun e

/-- `Complete()` (46 R136), enabled iff BUSY = 1: LEN_RANGE is checked first, before any payload byte is read
(60 R140, R145). The six units leave their working state behind (log 8). -/
def State.complete (s : State) : State :=
  if s.params.ibufSize.toNat < s.srcLen.toNat then s.runError .lenRange
  else { s with work := runUnits s.payload s.key }.deliver (encodePayload s.payload s.key)

/-- The engine's turn: its one step if it is enabled, else nothing happens (10 R14). -/
def State.engineStep (s : State) : State := if s.busy then s.complete else s

/-- The agenda's head is taken. -/
def State.advance (s : State) : State := { s with agenda := s.agenda.tail }

end Sys2Proof.Machine
end

