-- ==== Sys2Proof/Machine/Step.lean ====
section
/-! DEFINITION. One step of the block: the head of the agenda happens (spec/20_memory.md R50, spec/60_exceptions.md R146; log 5). -/

namespace Sys2Proof.Machine

/-- One step. An issued code word is decoded and its meaning runs; the engine takes its turn; hardware reset is asserted.
With nothing left on the agenda the engine completes a run in progress (the fairness of 70 R165), and an idle block waits
(70 R156). -/
def step (s : State) : Host.Outcome State Fault Refusal :=
  match s.agenda with
  | [] => .next s.engineStep
  | .issue c :: _ => exec (decode s.params c) s.advance
  | .engine :: _ => .next s.advance.engineStep
  | .hardReset :: _ => .next s.advance.hardReset

/-- `s` with the code word of a table row's bits issued next (log 6). A number that is no code word changes nothing. -/
def State.withFetchWord (s : State) (nbits w : Nat) : State :=
  match codeWordOfBits nbits w with
  | some c => { s with agenda := .issue c :: s.agenda }
  | none => s

end Sys2Proof.Machine
end

