-- ==== Sys2Proof/Machine/RoundTrip.lean ====
section
/-! DEFINITION. The reading side of the format: replaying a symbol sequence (42 R99), and the DECODE of 46 R137. No part of
the machine, which has no decoder (00 R6): the spec gives it so that the round trip can be stated. -/

namespace Sys2Proof.Machine

/-- Appends `out[len(out) - off]` (46 R137); none where there is no such byte. -/
def copyByte (off : Nat) (out : List Byte) : Option (List Byte) :=
  if off ≤ out.length then out[out.length - off]?.map fun b => out ++ [b] else none

/-- `n` bytes copied one by one, so that a copy may overlap what it produces (42 R98). -/
def copyBytes (off : Nat) : Nat → List Byte → Option (List Byte)
  | 0, out => some out
  | n + 1, out => (copyByte off out).bind (copyBytes off n)

/-- One record of a replay (42 R99): a literal appends its byte, `REF L, off` copies `L` bytes. -/
def replayRecord (out : List Byte) : Match → Option (List Byte)
  | .lit v => some (out ++ [v])
  | .ref v f => copyBytes (f.toNat + minOffset) (v.toNat + 2) out

/-- Replaying a symbol sequence onto what is already there (42 R99). -/
def replayFrom : List Byte → List Match → Option (List Byte)
  | out, [] => some out
  | out, m :: s => (replayRecord out m).bind fun out' => replayFrom out' s

/-- Replaying a symbol sequence (42 R99). -/
def replay (s : List Match) : Option (List Byte) := replayFrom [] s

/-- The symbol whose code has `n` bits and the value `v` (30 R62). -/
def symbolOf (code : List Nat) (depth : List Byte) (n v : Nat) : Option Nat :=
  (codedSymbols depth).find? fun s => depthAt depth s == n && codeAt code s == v

/-- Reads bits one at a time until they equal a code (30 R62, 46 R137), `n` bits of value `v` having been read: the
symbol and the bits after its code. -/
def readCode (code : List Nat) (depth : List Byte) : (n v : Nat) → List Bool → Option (Nat × List Bool)
  | _, _, [] => none
  | n, v, b :: bs =>
      match symbolOf code depth (n + 1) (2 * v + b.toNat) with
      | some s => some (s, bs)
      | none => readCode code depth (n + 1) (2 * v + b.toNat) bs

/-- The record of a symbol that was read, with the bits after it: a backreference takes 12 more bits (30 R62). -/
def readOffset (s : Nat) (bits : List Bool) : Option (Match × List Bool) :=
  if s < 256 then some (.lit (BitVec.ofNat 8 s), bits)
  else if offsetBits ≤ bits.length then
    some (.ref (BitVec.ofNat 8 (s - 256)) (BitVec.ofNat 12 (natOfBits (bits.take offsetBits))), bits.drop offsetBits)
  else none

/-- Reads one token (30 R62). -/
def readToken (code : List Nat) (depth : List Byte) (bits : List Bool) : Option (Match × List Bool) :=
  (readCode code depth 0 0 bits).bind fun sb => readOffset sb.1 sb.2

/-- Reads `cnt` tokens (45 R126): the symbol sequence and the bits left over. -/
def readTokens (code : List Nat) (depth : List Byte) : (cnt : Nat) → List Bool → Option (List Match × List Bool)
  | 0, bits => some ([], bits)
  | cnt + 1, bits =>
      (readToken code depth bits).bind fun mb =>
        (readTokens code depth cnt mb.2).map fun sb => (mb.1 :: sb.1, sb.2)

/-- The u32 at an index of a container, little-endian (20 R40). -/
def u32At (c : List Byte) (i : Nat) : Word :=
  (((c.getD (i + 3) 0#8 ++ c.getD (i + 2) 0#8) ++ c.getD (i + 1) 0#8) ++ c.getD i 0#8 : BitVec (8 + 8 + 8 + 8))

/-- The inverse of `KS_ENCRYPT` (41 R91): subtraction modulo 256, entry by entry. -/
def ksDecrypt (enc ks : List Byte) : List Byte := List.zipWith (· - ·) enc ks

/-- The depth table of a container (46 R137). -/
def depthsOf (c : List Byte) : List Byte := ksDecrypt ((c.drop 32).take alphabet) (ksSeq (u32At c 16))

/-- The bits of bytes, bit 7 of each first (45 R121). -/
def bitsOf (bytes : List Byte) : List Bool := bytes.flatMap fun b => bitsMsb b.toNat 8

/-- `DECODE(C)` (46 R137). -/
def decodeContainer (c : List Byte) : Option (List Byte) :=
  if c.take 16 = tag then
    (readTokens (assignCodes (depthsOf c)) (depthsOf c) (u32At c 24).toNat (bitsOf (c.drop 544))).bind fun sb =>
      (replay sb.1).bind fun out => if out.length = (u32At c 20).toNat then some out else none
  else none

/-- The depth sum of 43 R113 in units of `2^-255`: each coded symbol counts `2^(255 - depth)`. -/
def depthSum (depth : List Byte) : Nat :=
  ((codedSymbols depth).map fun s => 2 ^ (depthMax - depthAt depth s)).sum

end Sys2Proof.Machine
end

