-- ==== Sys2Proof/Safety.lean ====
section
/-! DEFINITION. The terms in which claims speak of the block: the states its rules allow, and which events do what. -/

namespace Sys2Proof.Machine

/-- The rules every state of the block meets. -/
structure State.Inv (s : State) : Prop where
  /-- The build meets 00 R8. -/
  params_wf : s.params.wf = true
  /-- At most one of BUSY, DONE and ERROR is 1 (10 R21). -/
  not_busy_done : ¬(s.busy = true ∧ s.done = true)
  not_busy_error : ¬(s.busy = true ∧ s.error = true)
  not_done_error : ¬(s.done = true ∧ s.error = true)
  /-- Legal ERRCODE values are 0, 1 and 2 (10 R21). -/
  errCode_legal : s.errCode = 0#4 ∨ s.errCode = 1#4 ∨ s.errCode = 2#4
  /-- ERRCODE describes the current ERROR and never outlives it (10 R21, decision D24). -/
  errCode_iff : s.error = true ↔ s.errCode ≠ 0#4
  /-- CLAMP belongs to a successful run (10 R21, 60 R139). -/
  clamp_success : s.clamp = true → s.busy = false ∧ s.error = false
  /-- During a run the counts are 0 (40 R78). -/
  running_counts : s.busy = true → s.symCount = 0#32 ∧ s.outLen = 0#32
  /-- Both buffers are in canonical form and inside their sizes (10 R27, R28). -/
  ibuf_wf : s.ibuf.wf s.params.ibufSize.toNat = true
  obuf_wf : s.obuf.wf s.params.obufSize.toNat = true
  /-- While DONE = 1, OUT_LEN is the length of a whole container that fits OBUF (10 R25, R28). -/
  done_len : s.done = true → 544 ≤ s.outLen.toNat ∧ s.outLen.toNat ≤ s.params.obufSize.toNat
  /-- While DONE = 1, every byte below OUT_LEN is a container byte (10 R28). -/
  done_bytes : s.done = true → ∀ i, i < s.outLen.toNat → (s.obuf.byteAt i).isSome = true
  /-- While DONE = 1, OBUF starts with the tag (46 R127). -/
  done_tag : s.done = true → ∀ i, i < 16 → s.obuf.byteAt i = tag[i]?
  /-- The tables have an entry per symbol (10 R30, R32, R33) and the bit writer at most 7 pending bits (10 R35). -/
  freq_length : s.work.freq.length = alphabet
  depth_length : s.work.depth.length = alphabet
  code_length : s.work.code.length = alphabet
  acc_length : s.work.writer.acc.length ≤ 7

/-- The node at the end of a path from a node, `false` to its first child and `true` to its second (43 R106); none where the
path leaves the tree. -/
def Node.follow : List Bool → Node → Option Node
  | [], n => some n
  | _ :: _, .leaf _ _ _ => none
  | b :: path, .inner _ _ l r => (if b then r else l).follow path

/-- The operation at the head of the agenda is `i` (log 5). -/
def State.issues (s : State) (i : Instr) : Prop :=
  ∃ c rest, s.agenda = .issue c :: rest ∧ decode s.params c = i

/-- Hardware reset is at the head of the agenda. -/
def State.resetNext (s : State) : Prop := ∃ rest, s.agenda = .hardReset :: rest

/-- The response is OKAY (20 R37). -/
def Response.isOkay : Response → Bool
  | .none => false
  | .okay => true
  | .okayData _ => true
  | .err _ => false

/-- The reads (40 R75, R83, R85). -/
def isHostRead : Instr → Bool
  | .accErrReservedRegion _ _ => false
  | .accErrMisaligned _ _ _ => false
  | .accErrUnallocated _ _ => false
  | .accErrOutOfRange _ _ _ => false
  | .rdId => true
  | .rdCtrl => true
  | .rdStatus => true
  | .rdKey => true
  | .rdSrcLen => true
  | .rdSymCount => true
  | .rdOutLen => true
  | .rdIbufSize => true
  | .rdObufSize => true
  | .wrRoId _ => false
  | .wrRoSymCount _ => false
  | .wrRoOutLen _ => false
  | .wrRoIbufSize _ => false
  | .wrRoObufSize _ => false
  | .cmdSoftReset _ => false
  | .cmdStart _ => false
  | .wrCtrl _ => false
  | .wrStatus _ => false
  | .wrKey _ => false
  | .wrSrcLen _ => false
  | .rdIbuf _ => true
  | .wrIbuf _ _ => false
  | .rdObuf _ => true
  | .wrObuf _ _ => false
  | .lit _ => false
  | .ref _ _ => false
  | .refL2 _ => false

end Sys2Proof.Machine
end

