-- ==== Sys2Proof/Certificates/Slice0/Obligations.lean ====
section
/-! DEFINITION. The statements about the model, from the numbered rules of spec/. -/

open Sys2Proof Sys2Proof.Machine

/-! Encoding -/

/-- The encoder's word of every well-formed instruction, with every operand, decodes to that instruction (30 R66 to R69 for
host accesses, 30 R56 to R60 for symbol records, whose bit order is the model's choice, log 9). -/
def Obligations.DecodeOfEncodeIsInstruction : Prop :=
  ∀ (p : Params) (i : Instr), i.wf p = true → decode p (encode i) = i

/-- Every code word decodes to an instruction that meets its own row's condition and no earlier row's (30 R69). -/
def Obligations.DecodedInstructionsAreWellFormed : Prop :=
  ∀ (p : Params) (c : CodeWord), (decode p c).wf p = true

/-- Decoding drops no bit that is not ignored: the word of the decoded instruction is the word itself, but for the DATA of
a read (30 R66) and for what follows a literal's nine bits (30 R57). The bit order of a record is the model's choice (log 9). -/
def Obligations.EncodeOfDecodeKeepsBits : Prop :=
  (∀ (p : Params) (w : BitVec 65), w.getLsbD 64 = true → encode (decode p (.haw w)) = .haw w) ∧
    (∀ (p : Params) (w : BitVec 65), w.getLsbD 64 = false →
      encode (decode p (.haw w)) = .haw ((w >>> 32) <<< 32)) ∧
    (∀ (p : Params) (w : BitVec 21), w.getLsbD 8 = true → encode (decode p (.record w)) = .record w) ∧
    (∀ (p : Params) (w : BitVec 21), w.getLsbD 8 = false →
      encode (decode p (.record w)) = .record (w &&& 0x1FF#21))

/-- Words written out in the spec's tables decode to their operations (95 L2.7 and L2.8, with both sizes 4096); the last two
are symbol records, whose bit order is the model's choice (log 9). -/
def Obligations.SpecWordsDecodeToTheirOperations : Prop :=
  let p : Params := ⟨4096#32, 4096#32⟩
  decode p (.haw 0x00000000800000000#65) = .rdStatus ∧
    decode p (.haw 0x10000001400000005#65) = .wrRoSymCount 5#32 ∧
    decode p (.haw 0x10000000400000004#65) = .wrCtrl 4#32 ∧
    decode p (.haw 0x10000000400000001#65) = .cmdStart 1#32 ∧
    decode p (.haw 0x10000000400000007#65) = .cmdSoftReset 7#32 ∧
    decode p (.haw 0x10000000C12345678#65) = .wrKey 0x12345678#32 ∧
    decode p (.haw 0x14000000400434241#65) = .wrIbuf 4#30 0x00434241#32 ∧
    decode p (.haw 0x08000000000000000#65) = .rdObuf 0#30 ∧
    decode p (.haw 0x1C000000200000000#65) = .accErrReservedRegion (.write 0#32) 2#30 ∧
    decode p (.haw 0x10000000300000000#65) = .accErrMisaligned (.write 0#32) .csr 3#30 ∧
    decode p (.haw 0x03FFFFFFC00000000#65) = .accErrUnallocated .read 0x3FFFFFFC#30 ∧
    decode p (.haw 0x04000100000000000#65) = .accErrOutOfRange .read .ibuf 0x1000#30 ∧
    decode p (.record 0b000000000000001000001#21) = .lit 0x41#8 ∧
    decode p (.record 0b111111111111100000001#21) = .ref 1#8 0xFFF#12

/-! Steps -/

/-- A step runs the decoded instruction: with a code word next on the agenda, the step is the execution of what it decodes
to, on the state with that entry taken (log 5). -/
def Obligations.IssuedWordRunsItsInstruction : Prop :=
  ∀ (s : State) (c : CodeWord) (rest : List Event), s.agenda = .issue c :: rest →
    step s = exec (decode s.params c) { s with agenda := rest }

/-- An idle block changes nothing by itself, with nothing on the agenda or at the engine's turn (70 R156). The agenda is the
model's own (log 5). -/
def Obligations.IdleBlockWaits : Prop :=
  ∀ (s : State), s.busy = false →
    (s.agenda = [] → step s = .next s) ∧
      (∀ rest, s.agenda = .engine :: rest → step s = .next { s with agenda := rest })

/-- Hardware reset as an event: every CSR at its reset value, both buffers unspecified, no interrupt (70 R156, R158).
That the reset is an entry of the agenda is the model's choice (log 5, log 12). -/
def Obligations.HardwareResetClearsBlock : Prop :=
  ∀ (s : State) (rest : List Event), s.agenda = .hardReset :: rest →
    ∃ t, step s = .next t ∧ t.agenda = rest ∧ t.params = s.params ∧
      t.ctrlWord = 0#32 ∧ t.statusWord = 0#32 ∧ t.key = 0#32 ∧ t.srcLen = 0#32 ∧ t.symCount = 0#32 ∧
      t.outLen = 0#32 ∧ t.irq = false ∧ t.busy = false ∧
      ∀ a, t.ibuf.byteAt a = none ∧ t.obuf.byteAt a = none

/-- No step of any state ends in a fault or a refusal (60 R147: errors are reported in the CSRs and the block goes on;
DEDUCED, log 15). -/
def Obligations.EveryStepAnswersNext : Prop := ∀ s : State, ∃ t, step s = .next t

/-! The host operations -/

/-- 40 R76, R86: a write to a read-only register or to OBUF raises RO_WRITE: ERR with read data 0, ACCERR set, nothing else. -/
def Obligations.ReadOnlyWritesAreRefused : Prop :=
  ∀ (s : State) (d : Word) (off : Off30),
    exec (.wrRoId d) s = .next { s with accErr := true, resp := .err 0#32 } ∧
    exec (.wrRoSymCount d) s = .next { s with accErr := true, resp := .err 0#32 } ∧
    exec (.wrRoOutLen d) s = .next { s with accErr := true, resp := .err 0#32 } ∧
    exec (.wrRoIbufSize d) s = .next { s with accErr := true, resp := .err 0#32 } ∧
    exec (.wrRoObufSize d) s = .next { s with accErr := true, resp := .err 0#32 } ∧
    exec (.wrObuf off d) s = .next { s with accErr := true, resp := .err 0#32 }

/-- The four AccessError rows of the access map: ERR with read data 0, ACCERR set, nothing else (60 R138, 40 R73). -/
def Obligations.AccessErrorRowsAnswerErr : Prop :=
  ∀ (s : State) (acc : Access) (r : Region) (off : Off30),
    exec (.accErrReservedRegion acc off) s = .next { s with accErr := true, resp := .err 0#32 } ∧
    exec (.accErrMisaligned acc r off) s = .next { s with accErr := true, resp := .err 0#32 } ∧
    exec (.accErrUnallocated acc off) s = .next { s with accErr := true, resp := .err 0#32 } ∧
    exec (.accErrOutOfRange acc r off) s = .next { s with accErr := true, resp := .err 0#32 }

/-- An access whose address is reserved, misaligned, unallocated or beyond its buffer is answered ERR and changes nothing
but ACCERR (60 R138, 20 R38, R43); the address is read straight from the word's bits. -/
def Obligations.IllegalAddressesRaiseAccessError : Prop :=
  ∀ (s : State) (w : BitVec 65) (rest : List Event), s.agenda = .issue (.haw w) :: rest →
    (w.extractLsb' 62 2 = 0b11#2 ∨
      w.extractLsb' 32 2 ≠ 0b00#2 ∨
      (w.extractLsb' 62 2 = 0b00#2 ∧ 0x20 < (w.extractLsb' 32 30).toNat) ∨
      (w.extractLsb' 62 2 = 0b01#2 ∧ s.params.ibufSize.toNat ≤ (w.extractLsb' 32 30).toNat) ∨
      (w.extractLsb' 62 2 = 0b10#2 ∧ s.params.obufSize.toNat ≤ (w.extractLsb' 32 30).toNat)) →
    step s = .next { s with agenda := rest, accErr := true, resp := .err 0#32 }

/-- 40 R74: while BUSY = 1, START and the writes of KEY, SRC_LEN and IBUF raise BUSY_WRITE and change nothing else; every
read, WR_CTRL, CMD_SOFT_RESET and WR_STATUS are allowed; so no host operation that leaves the run going changes its inputs. -/
def Obligations.BusyGuardsTheRunInputs : Prop :=
  ∀ s : State, s.busy = true →
    (∀ (d : Word) (off : Off30),
      exec (.cmdStart d) s = .next { s with accErr := true, resp := .err 0#32 } ∧
      exec (.wrKey d) s = .next { s with accErr := true, resp := .err 0#32 } ∧
      exec (.wrSrcLen d) s = .next { s with accErr := true, resp := .err 0#32 } ∧
      exec (.wrIbuf off d) s = .next { s with accErr := true, resp := .err 0#32 }) ∧
    (∀ i : Instr, (isHostRead i = true ∨ ∃ d, i = .wrCtrl d ∨ i = .cmdSoftReset d ∨ i = .wrStatus d) →
      ∃ t, exec i s = .next t ∧ t.resp.isOkay = true) ∧
    (∀ (i : Instr) (t : State), exec i s = .next t → t.busy = true →
      t.key = s.key ∧ t.srcLen = s.srcLen ∧ t.ibuf = s.ibuf)

/-- 40 R75: what each register reads, and that a read changes nothing but the response. -/
def Obligations.CsrReadsReturnRegisters : Prop :=
  ∀ s : State, ∃ c st : Word,
    c.toNat = 4 * s.irqEn.toNat ∧
    st.toNat = s.busy.toNat + 2 * s.done.toNat + 4 * s.error.toNat + 8 * s.accErr.toNat + 16 * s.clamp.toNat +
      256 * s.errCode.toNat ∧
    exec .rdId s = .next { s with resp := .okayData 0x44534331#32 } ∧
    exec .rdCtrl s = .next { s with resp := .okayData c } ∧
    exec .rdStatus s = .next { s with resp := .okayData st } ∧
    exec .rdKey s = .next { s with resp := .okayData s.key } ∧
    exec .rdSrcLen s = .next { s with resp := .okayData s.srcLen } ∧
    exec .rdSymCount s = .next { s with resp := .okayData s.symCount } ∧
    exec .rdOutLen s = .next { s with resp := .okayData s.outLen } ∧
    exec .rdIbufSize s = .next { s with resp := .okayData s.params.ibufSize } ∧
    exec .rdObufSize s = .next { s with resp := .okayData s.params.obufSize }

/-- 40 R77: WR_CTRL writes IRQ_EN from `DATA[2]`, in every state, and the interrupt line follows at once. -/
def Obligations.WrCtrlSetsInterruptEnable : Prop :=
  ∀ (s : State) (d : Word), ∃ t, exec (.wrCtrl d) s = .next t ∧
    t = { s with irqEn := d.getLsbD 2, resp := .okay } ∧ t.irq = (d.getLsbD 2 && (s.done || s.error))

/-- 40 R78: an accepted START sets BUSY, writes IRQ_EN and clears the previous results, whatever SRC_LEN and IBUF hold; a
START during a run raises BUSY_WRITE. -/
def Obligations.StartIsAcceptedWhenIdle : Prop :=
  ∀ (s : State) (d : Word),
    (s.busy = false → exec (.cmdStart d) s = .next { s with
      irqEn := d.getLsbD 2, done := false, error := false, errCode := 0#4, clamp := false,
      symCount := 0#32, outLen := 0#32, busy := true, resp := .okay }) ∧
    (s.busy = true → exec (.cmdStart d) s = .next { s with accErr := true, resp := .err 0#32 })

/-- A soft reset brings every CSR to its reset value in every state, leaves IBUF and the parameters, makes every OBUF byte
unspecified and deasserts the interrupt (40 R79, 70 R157, R158); the other data bits do not matter (60 R144). -/
def Obligations.SoftResetClearsCsrsAndKeepsIbuf : Prop :=
  ∀ (s : State) (d : Word), ∃ t, exec (.cmdSoftReset d) s = .next t ∧
    t = { s with
      irqEn := false, key := 0#32, srcLen := 0#32, busy := false, done := false, error := false, accErr := false,
      clamp := false, errCode := 0#4, symCount := 0#32, outLen := 0#32, obuf := t.obuf, work := t.work,
      resp := .okay } ∧
    (∀ a, t.obuf.byteAt a = none) ∧ t.ctrlWord = 0#32 ∧ t.statusWord = 0#32 ∧ t.irq = false

/-- 40 R80, 30 R68: each W1C bit written as 1 is cleared, ERRCODE with ERROR, and no other bit changes. -/
def Obligations.WrStatusClearsSelectedBits : Prop :=
  ∀ (s : State) (d : Word), exec (.wrStatus d) s = .next { s with
    done := s.done && !d.getLsbD 1
    error := s.error && !d.getLsbD 2
    errCode := if d.getLsbD 2 = true then 0#4 else s.errCode
    accErr := s.accErr && !d.getLsbD 3
    resp := .okay }

/-- 40 R81, R82: outside a run KEY and SRC_LEN take any value; during a run the write raises BUSY_WRITE. -/
def Obligations.KeyAndSrcLenAreWritable : Prop :=
  ∀ (s : State) (d : Word),
    (s.busy = false → exec (.wrKey d) s = .next { s with key := d, resp := .okay } ∧
      exec (.wrSrcLen d) s = .next { s with srcLen := d, resp := .okay }) ∧
    (s.busy = true → exec (.wrKey d) s = .next { s with accErr := true, resp := .err 0#32 } ∧
      exec (.wrSrcLen d) s = .next { s with accErr := true, resp := .err 0#32 })

/-- 40 R84: outside a run WR_IBUF writes the four bytes at its offset, least significant first, and no other byte and no
other state; during a run it raises BUSY_WRITE. The buffer is in canonical form, as in every reachable state. -/
def Obligations.WrIbufStoresItsFourBytes : Prop :=
  ∀ (s : State) (off : Off30) (d : Word), s.ibuf.wf s.params.ibufSize.toNat = true →
    (s.busy = false → ∃ t, exec (.wrIbuf off d) s = .next t ∧ t = { s with ibuf := t.ibuf, resp := .okay } ∧
      (∀ i, i < 4 → t.ibuf.byteAt (off.toNat + i) = some (d.extractLsb' (8 * i) 8)) ∧
      (∀ a, ¬(off.toNat ≤ a ∧ a < off.toNat + 4) → t.ibuf.byteAt a = s.ibuf.byteAt a)) ∧
    (s.busy = true → exec (.wrIbuf off d) s = .next { s with accErr := true, resp := .err 0#32 })

/-- 40 R83: RD_IBUF answers a word in every state; each of its bytes that has been written is the byte of IBUF, and nothing
is said of a byte never written (log 2). Only the response changes (and the model's count of free bytes, log 3). -/
def Obligations.RdIbufReturnsWrittenBytes : Prop :=
  ∀ (s : State) (off : Off30), ∃ t w, exec (.rdIbuf off) s = .next t ∧
    t = { s with resp := .okayData w, draws := t.draws } ∧
    ∀ i b, i < 4 → s.ibuf.byteAt (off.toNat + i) = some b → w.extractLsb' (8 * i) 8 = b

/-- 40 R85: RD_OBUF answers a word in every state; with DONE = 1 each of its bytes below OUT_LEN is the byte of OBUF, and
nothing is said of any other byte. Only the response changes (and the model's count of free bytes, log 3). -/
def Obligations.RdObufReturnsContainerBytes : Prop :=
  ∀ (s : State) (off : Off30), ∃ t w, exec (.rdObuf off) s = .next t ∧
    t = { s with resp := .okayData w, draws := t.draws } ∧
    ∀ i b, i < 4 → s.done = true → off.toNat + i < s.outLen.toNat → s.obuf.byteAt (off.toNat + i) = some b →
      w.extractLsb' (8 * i) 8 = b

/-- A word written to IBUF reads back (20 R46). -/
def Obligations.IbufReadsBackWhatWasWritten : Prop :=
  ∀ (s : State) (off : Off30) (d : Word), s.busy = false → s.ibuf.wf s.params.ibufSize.toNat = true →
    ∃ t u, exec (.wrIbuf off d) s = .next t ∧ exec (.rdIbuf off) t = .next u ∧ u.resp = .okayData d

/-- 20 R45: a read changes no state of the block, only what the port shows (and the model's count of free bytes, log 3). -/
def Obligations.ReadsHaveNoSideEffects : Prop :=
  ∀ (i : Instr) (s : State), isHostRead i = true →
    ∃ t, exec i s = .next t ∧ t = { s with resp := t.resp, draws := t.draws }

/-- A symbol record appends its token to the bit writer's stream and changes nothing else: the code of symbol `V`, or of
symbol `256 + V` and then the 12-bit offset field (30 R57, R58, R61, 45 R122, R123; log 7). -/
def Obligations.RecordsAppendTheirToken : Prop :=
  ∀ (s : State) (v : Byte) (f : Off12), s.work.writer.acc.length ≤ 7 →
    (∃ t, exec (.lit v) s = .next t ∧
      t = { s with work := { s.work with writer := t.work.writer } } ∧
      t.work.writer.stream = s.work.writer.stream ++
        bitsMsb (codeAt s.work.code v.toNat) (depthAt s.work.depth v.toNat)) ∧
    (∃ t, exec (.ref v f) s = .next t ∧
      t = { s with work := { s.work with writer := t.work.writer } } ∧
      t.work.writer.stream = s.work.writer.stream ++
        bitsMsb (codeAt s.work.code (256 + v.toNat)) (depthAt s.work.depth (256 + v.toNat)) ++ bitsMsb f.toNat 12) ∧
    (∃ t, exec (.refL2 f) s = .next t ∧
      t = { s with work := { s.work with writer := t.work.writer } } ∧
      t.work.writer.stream = s.work.writer.stream ++
        bitsMsb (codeAt s.work.code 256) (depthAt s.work.depth 256) ++ bitsMsb f.toNat 12)

/-! Rules of the whole block -/

/-- Every step keeps the block's invariant: at most one of BUSY, DONE and ERROR (10 R21), a legal ERRCODE that describes ERROR,
both buffers in canonical form and in range, and a whole container behind DONE = 1 (10 R28). The sizes of the internal tables
between runs are the model's choice (log 8). -/
def Obligations.EveryStepKeepsInvariant : Prop :=
  ∀ s t : State, s.Inv → step s = .next t → t.Inv

/-- The invariant holds after hardware reset of every build the spec allows (70 R158, 00 R8); the working state's values are
the model's choice (log 8). -/
def Obligations.InvariantHoldsAtReset : Prop := ∀ p : Params, p.wf = true → (State.resetWith p).Inv

/-- BUSY becomes 1 only by an accepted START (10 R36). -/
def Obligations.BusyRisesOnlyByStart : Prop :=
  ∀ s t : State, step s = .next t → s.busy = false → t.busy = true → ∃ d, s.issues (.cmdStart d)

/-- ACCERR is sticky: it is cleared only by writing 1 to it, or by a reset (10 R21). -/
def Obligations.AccessErrorBitIsSticky : Prop :=
  ∀ s t : State, step s = .next t → s.accErr = true → t.accErr = false →
    (∃ d, s.issues (.wrStatus d) ∧ d.getLsbD 3 = true) ∨ (∃ d, s.issues (.cmdSoftReset d)) ∨ s.resetNext

/-- A byte of IBUF changes only by a WR_IBUF that covers it outside a run, or by hardware reset (10 R27, 40 R74). -/
def Obligations.IbufChangesOnlyByItsWrites : Prop :=
  ∀ (s t : State) (a : Nat), s.ibuf.wf s.params.ibufSize.toNat = true → step s = .next t →
    t.ibuf.byteAt a ≠ s.ibuf.byteAt a →
    (∃ off d, s.issues (.wrIbuf off d) ∧ s.busy = false ∧ off.toNat ≤ a ∧ a < off.toNat + 4) ∨ s.resetNext

/-- While DONE stays 1 the container stays: no step changes OBUF, OUT_LEN or SYM_COUNT (10 R28, 70 R160). BUSY and DONE are
not both 1, as in every reachable state. -/
def Obligations.ContainerStaysWhileDone : Prop :=
  ∀ s t : State, step s = .next t → s.busy = false → s.done = true → t.done = true →
    t.obuf = s.obuf ∧ t.outLen = s.outLen ∧ t.symCount = s.symCount

/-- A run's inputs cannot change between START and the completion step: while BUSY stays 1, no step changes KEY, SRC_LEN or
the payload (40 R74, 20 R53). -/
def Obligations.RunInputsAreLocked : Prop :=
  ∀ s t : State, step s = .next t → s.busy = true → t.busy = true →
    t.key = s.key ∧ t.srcLen = s.srcLen ∧ t.ibuf = s.ibuf ∧ t.payload = s.payload

/-- A soft reset during a run comes out the same whether it falls before the completion step, which it cancels, or after it
(60 R146, 70 R157). What the reset leaves in the working state is the model's choice (log 8). -/
def Obligations.SoftResetOrderDoesNotMatter : Prop :=
  ∀ (s : State) (c : CodeWord) (d : Word), s.busy = true → decode s.params c = .cmdSoftReset d →
    ∃ t : State, Sys2Proof.core.run 2 ({ s with agenda := [.issue c, .engine] } : State) = .next t ∧
      Sys2Proof.core.run 2 ({ s with agenda := [.engine, .issue c] } : State) = .next t ∧
      t.busy = false ∧ t.done = false ∧ t.outLen = 0#32 ∧ t.ibuf = s.ibuf

/-- Every run ends: when the agenda has been worked off, one more step leaves BUSY = 0 (70 R165). That the engine steps on an
empty agenda is the model's form of the fairness rule (log 5). -/
def Obligations.EveryRunEnds : Prop :=
  ∀ s : State, ∃ t : State, Sys2Proof.core.run (s.agenda.length + 1) s = .next t ∧ t.agenda = [] ∧ t.busy = false

/-- The internal working state is unobservable: runs that start from states differing only in it stay equal in everything
else (10 R15, 70 R158). -/
def Obligations.WorkingStateIsUnobservable : Prop :=
  ∀ (n : Nat) (s t : State) (w : Work), Sys2Proof.core.run n s = .next t →
    ∃ w', Sys2Proof.core.run n ({ s with work := w } : State) = .next ({ t with work := w' } : State)

/-- The completion step of a run whose payload and container fit (46 R136): the container enters OBUF from byte 0, no other
byte of OBUF changes (log 10), the counts enter their CSRs, and DONE replaces BUSY. -/
def Obligations.CompletionDeliversContainer : Prop :=
  ∀ (s : State) (rest : List Event), s.agenda = .engine :: rest → s.busy = true →
    s.srcLen.toNat ≤ s.params.ibufSize.toNat →
    (encodePayload s.payload s.key).container.length ≤ s.params.obufSize.toNat →
    ∃ t, step s = .next t ∧
      t = { s with
        agenda := rest, busy := false, done := true, clamp := (encodePayload s.payload s.key).clamped,
        symCount := t.symCount, outLen := t.outLen, obuf := t.obuf, work := t.work } ∧
      t.symCount.toNat = (findMatches s.payload).length ∧
      t.outLen.toNat = (encodePayload s.payload s.key).container.length ∧
      (∀ a, a < t.outLen.toNat → t.obuf.byteAt a = (encodePayload s.payload s.key).container[a]?) ∧
      (∀ a, t.outLen.toNat ≤ a → t.obuf.byteAt a = s.obuf.byteAt a)

/-- A payload longer than IBUF ends the run with ERROR and ERRCODE 1, both counts 0, and every OBUF byte unspecified (60 R139,
R140, R147; log 10). That the working state stays as it was is the model's choice (log 8). -/
def Obligations.LongPayloadEndsInLenRange : Prop :=
  ∀ (s : State) (rest : List Event), s.agenda = .engine :: rest → s.busy = true →
    s.params.ibufSize.toNat < s.srcLen.toNat →
    ∃ t, step s = .next t ∧
      t = { s with
        agenda := rest, busy := false, error := true, errCode := 1#4, done := false, clamp := false,
        symCount := 0#32, outLen := 0#32, obuf := t.obuf } ∧
      ∀ a, t.obuf.byteAt a = none

/-- A container longer than OBUF ends the run with ERROR and ERRCODE 2, SYM_COUNT the symbol count and OUT_LEN the length
needed, as u32 values (60 R141, R139; log 13). -/
def Obligations.LongContainerEndsInOverflow : Prop :=
  ∀ (s : State) (rest : List Event), s.agenda = .engine :: rest → s.busy = true →
    s.srcLen.toNat ≤ s.params.ibufSize.toNat →
    s.params.obufSize.toNat < (encodePayload s.payload s.key).container.length →
    ∃ t, step s = .next t ∧
      t = { s with
        agenda := rest, busy := false, error := true, errCode := 2#4, done := false, clamp := false,
        symCount := BitVec.ofNat 32 (findMatches s.payload).length,
        outLen := BitVec.ofNat 32 (encodePayload s.payload s.key).container.length, obuf := t.obuf, work := t.work } ∧
      ∀ a, t.obuf.byteAt a = none

/-- With IRQ_EN = 1 the completion step of every run asserts the interrupt, whether it succeeds or not, and the line is
`IRQ_EN AND (DONE OR ERROR)` in every state (60 R143). -/
def Obligations.CompletionRaisesInterrupt : Prop :=
  (∀ s : State, s.irq = (s.irqEn && (s.done || s.error))) ∧
    ∀ (s : State) (rest : List Event), s.agenda = .engine :: rest → s.busy = true → s.irqEn = true →
      ∃ t, step s = .next t ∧ t.irq = true

/-- A START alone repeats a run: the second run leaves the same container and counts as the first (70 R159, 00 R4). -/
def Obligations.RestartRepeatsTheRun : Prop :=
  ∀ (s : State) (c : CodeWord) (d : Word), s.busy = true → s.srcLen.toNat ≤ s.params.ibufSize.toNat →
    (encodePayload s.payload s.key).container.length ≤ s.params.obufSize.toNat →
    decode s.params c = .cmdStart d →
    ∃ t u : State, Sys2Proof.core.run 1 ({ s with agenda := [.engine] } : State) = .next t ∧
      Sys2Proof.core.run 3 ({ s with agenda := [.engine, .issue c, .engine] } : State) = .next u ∧
      u.done = true ∧ u.outLen = t.outLen ∧ u.symCount = t.symCount ∧ u.clamp = t.clamp ∧
      ∀ a, a < t.outLen.toNat → u.obuf.byteAt a = t.obuf.byteAt a

/-- Bytes of IBUF at or beyond SRC_LEN have no effect on a run (70 R163, 40 R84). The count of hardware resets is the model's
own (log 12). -/
def Obligations.BytesBeyondPayloadDoNotMatter : Prop :=
  ∀ s t : State, s.srcLen = t.srcLen → s.key = t.key → s.resets = t.resets →
    (∀ i, i < s.srcLen.toNat → s.ibuf.byteAt i = t.ibuf.byteAt i) →
    encodePayload s.payload s.key = encodePayload t.payload t.key

/-! The six units -/

/-- A 32-bit datapath that wraps at every multiply and add computes KS_ADVANCE (41 R87, 00 R11), and byte `i` of the 512 bytes
of KS_SEQ is the output of that step on the state reached from the key after `i` steps (41 R89). -/
def Obligations.KeystreamStepIsWrappingDatapath : Prop :=
  (∀ s : Word,
    let v0 : Word := 20021#32 * (s &&& 0xFFFF#32)
    let v1 : Word := (0x53440000#32 ||| (s >>> 16)) * 20021#32 + s * 346#32
    let v1c : Word := (v1 + (v0 >>> 16)) &&& 0xFFFF#32
    ksAdvance s magic = ((v1c <<< 16) + (v0 &&& 0xFFFF#32) + 1#32, v1c.setWidth 8)) ∧
  ∀ k : Word, (ksSeq k).length = 512 ∧
    ∀ i, i < 512 →
      (ksSeq k)[i]? = some (ksAdvance (Nat.iterate (fun s => (ksAdvance s magic).1) i k) magic).2

/-- 41 R91: subtracting the same keystream recovers the depths exactly. -/
def Obligations.KeystreamRecoversDepths : Prop :=
  ∀ (depth : List Byte) (k : Word), depth.length = 512 → ksDecrypt (ksEncrypt depth (ksSeq k)) (ksSeq k) = depth

/-- 42 R92: MATCH_LEN is the longest run of equal bytes within 257 and the end of the payload. -/
def Obligations.MatchLengthIsLongestRun : Prop :=
  ∀ (p : List Byte) (pos off : Nat), 2 ≤ off → off ≤ pos → pos < p.length →
    matchLen p pos off ≤ min 257 (p.length - pos) ∧
    (∀ j, j < matchLen p pos off → p[pos + j]? = p[pos - off + j]?) ∧
    (matchLen p pos off < min 257 (p.length - pos) →
      p[pos + matchLen p pos off]? ≠ p[pos - off + matchLen p pos off]?)

/-- 42 R95: BEST's length is the greatest in the window, and its offset, once the length is 3 or more, the largest that
reaches it. -/
def Obligations.BestIsLargestOffsetOfLongestMatch : Prop :=
  ∀ (p : List Byte) (pos : Nat),
    (∀ off, 2 ≤ off → off ≤ min pos 4097 → matchLen p pos off ≤ (best p pos).1) ∧
    (3 ≤ (best p pos).1 → ∃ off, (best p pos).2 = some off ∧ 2 ≤ off ∧ off ≤ min pos 4097 ∧
      matchLen p pos off = (best p pos).1 ∧
      ∀ off', 2 ≤ off' → off' ≤ min pos 4097 → matchLen p pos off' = (best p pos).1 → off' ≤ off)

/-- 42 R99: the parse covers the payload, every record says what stands at its place, its length is bounded on both
sides, and replaying it gives the payload back. -/
def Obligations.ParseIsValid : Prop :=
  ∀ p : List Byte,
    ((findMatches p).map Match.len).sum = p.length ∧
    (∀ (pre post : List Match) (v : Byte), findMatches p = pre ++ .lit v :: post →
      p[(pre.map Match.len).sum]? = some v) ∧
    (∀ (pre post : List Match) (v : Byte) (f : Off12), findMatches p = pre ++ .ref v f :: post →
      3 ≤ v.toNat + 2 ∧ v.toNat + 2 ≤ 257 ∧ 2 ≤ f.toNat + 2 ∧
      f.toNat + 2 ≤ min (pre.map Match.len).sum 4097 ∧
      ∀ j, j < v.toNat + 2 →
        p[(pre.map Match.len).sum + j]? = p[(pre.map Match.len).sum - (f.toNat + 2) + j]?) ∧
    (findMatches p).length ≤ p.length ∧ ceilDiv p.length 257 ≤ (findMatches p).length ∧
    replay (findMatches p) = some p

/-- The first two records are literals, and a payload of at most four bytes has only literals (42 R97). -/
def Obligations.ShortPayloadsAreLiterals : Prop :=
  ∀ p : List Byte,
    (∀ i, i < min p.length 2 → ∃ v, (findMatches p)[i]? = some (.lit v)) ∧
    (p.length ≤ 4 → ∀ m, m ∈ findMatches p → ∃ v, m = .lit v)

/-- 30 R59: symbol 256 is never emitted, so its frequency and depth are 0 and its table byte is the keystream byte. -/
def Obligations.LengthTwoIsNeverEmitted : Prop :=
  ∀ (p : List Byte) (k : Word),
    (∀ m, m ∈ findMatches p → m.sym ≠ 256#9) ∧
    freqAt (runUnits p k).freq 256 = 0 ∧ depthAt (runUnits p k).depth 256 = 0 ∧
    (encodePayload p k).container[32 + 256]? = (ksSeq k)[256]?

/-- The counts add up to the number of records (43 R101). -/
def Obligations.CountsAddUpToRecords : Prop := ∀ s : List Match, (count s).sum = s.length

/-- MERGE leaves one root, whose id is `2k - 2` and whose frequency is the leaves' total (43 R104). Its leaves are the used
symbols in ascending order, leaf `j` with id `j` (43 R102); and each of its merges takes the two nodes that come first by
frequency and then by id (43 R103), and keeps ids unique. -/
def Obligations.MergeLeavesOneRoot : Prop :=
  (∀ freq : List Nat, 2 ≤ (leaves freq).length →
    ∃ f l r, merge (leaves freq) = [.inner f (2 * (leaves freq).length - 2) l r] ∧
      f = ((leaves freq).map Node.freq).sum) ∧
  (∀ freq : List Nat,
    (usedSymbols freq).Pairwise (· < ·) ∧ (∀ s, s ∈ usedSymbols freq ↔ s < 512 ∧ 0 < freqAt freq s) ∧
    ∀ j, (leaves freq)[j]? = (usedSymbols freq)[j]?.map fun s => Node.leaf (freqAt freq s) j (BitVec.ofNat 9 s)) ∧
  (∀ q : List Node, merge q = mergeTimes (q.length - 1) q.length q) ∧
  (∀ (n nextId : Nat) (q : List Node), mergeTimes 0 nextId q = q ∧
    mergeTimes (n + 1) nextId q = mergeTimes n (nextId + 1) (mergeOnce nextId q)) ∧
  ∀ (nextId : Nat) (q : List Node), 2 ≤ q.length → (q.map Node.id).Nodup → (∀ n, n ∈ q → n.id < nextId) →
    ∃ a b rest, q.Perm (a :: b :: rest) ∧ mergeOnce nextId q = Node.inner (a.freq + b.freq) nextId a b :: rest ∧
      (a.freq < b.freq ∨ (a.freq = b.freq ∧ a.id < b.id)) ∧
      (∀ n, n ∈ rest → b.freq < n.freq ∨ (b.freq = n.freq ∧ b.id < n.id)) ∧
      ((mergeOnce nextId q).map Node.id).Nodup ∧ ∀ n, n ∈ mergeOnce nextId q → n.id < nextId + 1

/-- With two or more used symbols, each gets exactly one raw depth, its leaf's distance from the root, which is between 1 and
`k - 1` (43 R106); the depth table holds it, or 255 where it is more (43 R109). -/
def Obligations.RawDepthsAreBounded : Prop :=
  ∀ freq : List Nat, 2 ≤ (usedSymbols freq).length →
    ((rawDepthsOf freq).map fun sd => sd.1.toNat).Perm (usedSymbols freq) ∧
    (∀ sd, sd ∈ rawDepthsOf freq → 1 ≤ sd.2 ∧ sd.2 ≤ (usedSymbols freq).length - 1 ∧
      depthAt (buildFromFreq freq).depth sd.1.toNat = min sd.2 255) ∧
    ∃ root, merge (leaves freq) = [root] ∧
      ∀ s d, (s, d) ∈ rawDepthsOf freq ↔
        ∃ path f i, path.length = d ∧ root.follow path = some (Node.leaf f i s)

/-- A symbol has depth 0 exactly when its frequency is 0; a lone symbol has depth 1 (43 R107, R108). -/
def Obligations.UsedSymbolsHaveDepths : Prop :=
  ∀ freq : List Nat,
    (∀ s, s < 512 → (depthAt (buildFromFreq freq).depth s = 0 ↔ freqAt freq s = 0)) ∧
    (∀ s, usedSymbols freq = [s] → depthAt (buildFromFreq freq).depth s = 1)

/-- 43 R113: with no clamp the depth sum is 1 for two or more symbols, and one half for one symbol (in units of
`2^-255`). -/
def Obligations.DepthSumIsOne : Prop :=
  ∀ freq : List Nat, (buildFromFreq freq).clamped = false →
    (2 ≤ (usedSymbols freq).length → depthSum (buildFromFreq freq).depth = 2 ^ 255) ∧
    ((usedSymbols freq).length = 1 → depthSum (buildFromFreq freq).depth = 2 ^ 254)

/-- 43 R111: no payload the block accepts has a raw depth above 255, so CLAMP is 0 after the completion step of every
run. -/
def Obligations.ClampIsUnreachable : Prop :=
  (∀ (p : List Byte) (k : Word), p.length ≤ 2 ^ 30 →
    (encodePayload p k).clamped = false ∧
    ∀ sd, sd ∈ rawDepthsOf (count (findMatches p)) → sd.2 ≤ 255) ∧
    ∀ (s t : State) (rest : List Event), s.params.wf = true → s.busy = true → s.agenda = .engine :: rest →
      step s = .next t → t.clamp = false

/-- 44 R116: with no clamp every code fits its length and no code is the beginning of another. -/
def Obligations.CodesAreBeginningFree : Prop :=
  ∀ freq : List Nat, (buildFromFreq freq).clamped = false →
    let depth := (buildFromFreq freq).depth
    let code := assignCodes depth
    ∀ s, s ∈ codedSymbols depth → codeAt code s < 2 ^ depthAt depth s ∧
      ∀ t, t ∈ codedSymbols depth → s ≠ t →
        ¬ (bitsMsb (codeAt code s) (depthAt depth s) <+: bitsMsb (codeAt code t) (depthAt depth t))

/-- The coding order holds each symbol with a depth once, by depth and then by symbol (44 R114); its first code is 0, each
next code is the one before plus one, shifted left by the growth of the depth (44 R115, R117); and the code table holds these
codes. -/
def Obligations.CodesAreCanonical : Prop :=
  ∀ depth : List Byte,
    ((assigned depth).map Prod.fst).Perm (codedSymbols depth) ∧
    (∀ s c, (s, c) ∈ assigned depth → codeAt (assignCodes depth) s = c) ∧
    (∀ s c, (assigned depth)[0]? = some (s, c) → c = 0) ∧
    ∀ i s s' c c', (assigned depth)[i]? = some (s, c) → (assigned depth)[i + 1]? = some (s', c') →
      (depthAt depth s < depthAt depth s' ∨ (depthAt depth s = depthAt depth s' ∧ s < s')) ∧
      c' = (c + 1) <<< (depthAt depth s' - depthAt depth s)

/-- The bitstream is the tokens in order and then fewer than eight 0 bits, in `ceil(nbits / 8)` bytes (30 R61, 45 R121,
R124, R125). -/
def Obligations.BitstreamIsTheTokens : Prop :=
  ∀ (code : List Nat) (depth : List Byte) (s : List Match),
    (∃ pad, pad < 8 ∧ bitsOf (pack s code depth) = s.flatMap (token code depth) ++ List.replicate pad false) ∧
    (pack s code depth).length = ceilDiv (nbits depth s) 8

/-- The two sums for the bit count agree (45 R125): by records, and by frequencies with 12 bits per backreference. -/
def Obligations.BitCountFollowsFromFrequencies : Prop :=
  ∀ (depth : List Byte) (s : List Match),
    nbits depth s =
      ((List.range 512).map fun i => freqAt (count s) i * depthAt depth i).sum + 12 * (s.filter Match.isRef).length

/-- The fields of the container and its length (46 R127 to R134), the size and count fields for every payload the block
accepts. -/
def Obligations.ContainerHasItsLayout : Prop :=
  ∀ (p : List Byte) (k : Word),
    let cont := (encodePayload p k).container
    let depth := (buildDepths (findMatches p)).depth
    cont.take 16 = [0x44#8, 0x53#8, 0x43#8, 0x20#8, 0x46#8, 0x4F#8, 0x52#8, 0x4D#8,
      0x41#8, 0x54#8, 0x20#8, 0x31#8, 0x2E#8, 0x30#8, 0x30#8, 0x00#8] ∧
    u32At cont 16 = k ∧
    (p.length ≤ 2 ^ 30 → (u32At cont 20).toNat = p.length ∧ (u32At cont 24).toNat = (findMatches p).length) ∧
    (cont.drop 28).take 4 = [0#8, 0#8, 0#8, 0#8] ∧
    (∀ i, i < 512 → cont[32 + i]? = some (depth.getD i 0#8 + (ksSeq k).getD i 0#8)) ∧
    cont.drop 544 = pack (findMatches p) (assignCodes depth) depth ∧
    cont.length = 544 + ceilDiv (nbits depth (findMatches p)) 8

/-- 46 R137: decoding the container of any payload the block accepts gives the payload back. -/
def Obligations.DecodeOfContainerIsPayload : Prop :=
  ∀ (p : List Byte) (k : Word), p.length ≤ 2 ^ 30 → decodeContainer (encodePayload p k).container = some p

/-- At each position the parse emits what EMIT makes of BEST there (42 R94, R96, R97): the backreference of the best length and
offset if that length is at least 3, else the literal byte. -/
def Obligations.RecordsFollowBest : Prop :=
  ∀ (p : List Byte) (pre post : List Match) (m : Match), findMatches p = pre ++ m :: post →
    let q := (pre.map Match.len).sum
    (3 ≤ (best p q).1 → ∃ v f, m = .ref v f ∧ v.toNat + 2 = (best p q).1 ∧ (best p q).2 = some (f.toNat + 2)) ∧
    ((best p q).1 < 3 → ∃ v, m = .lit v ∧ p[q]? = some v)
end

