-- ==== Sys2Proof/Laws/Decode.lean ====
section
/-! SUPPORT. The fields of an encoded word are the operands it was made of. -/

namespace Sys2Proof

@[simp] theorem hawAccess_mkHaw (acc : Access) (r : Region) (off : Off30) : hawAccess (mkHaw acc r off) = acc := by
  cases acc with
  | read =>
    have : hawW (mkHaw .read r off) = false := by
      simp only [hawW, mkHaw, BitVec.getLsbD_append]; simp
    simp [hawAccess, this]
  | write d =>
    have h : hawData (mkHaw (.write d) r off) = d := by
      apply BitVec.eq_of_getLsbD_eq; intro i hi
      simp only [hawData, mkHaw, BitVec.getLsbD_append, BitVec.getLsbD_extractLsb']
      simp [hi]
    have h2 : hawW (mkHaw (.write d) r off) = true := by
      simp only [hawW, mkHaw, BitVec.getLsbD_append]; simp
    simp [hawAccess, h, h2]

@[simp] theorem Region.ofBits_toBits (r : Region) : Region.ofBits r.toBits = r := by cases r <;> rfl

@[simp] theorem hawRegion_mkHaw (acc : Access) (r : Region) (off : Off30) : hawRegion (mkHaw acc r off) = r := by
  have h : ∀ acc, (mkHaw acc r off).extractLsb' 62 2 = r.toBits := by
    intro acc
    cases acc <;>
    · apply BitVec.eq_of_getLsbD_eq; intro i hi
      simp only [mkHaw, BitVec.getLsbD_append, BitVec.getLsbD_extractLsb', show ¬ (62 + i < 32) by omega, show ¬ (62 + i - 32 < 30) by omega, show (62 + i - 32 - 30 = i) by omega]
      simp [hi]
  rw [hawRegion, h, Region.ofBits_toBits]

@[simp] theorem hawOff_mkHaw (acc : Access) (r : Region) (off : Off30) : hawOff (mkHaw acc r off) = off := by
  cases acc <;>
  · apply BitVec.eq_of_getLsbD_eq; intro i hi
    simp only [hawOff, mkHaw, BitVec.getLsbD_append, BitVec.getLsbD_extractLsb']
    simp [hi]

theorem offAligned_eq (off : Off30) : offAligned off = wordAligned off := by
  have h : (off.extractLsb' 0 2).toNat = off.toNat % 4 := by simp [BitVec.extractLsb'_toNat]
  by_cases c : off.toNat % 4 = 0
  · have : off.extractLsb' 0 2 = 0#2 := BitVec.eq_of_toNat_eq (by simp [h, c])
    simp [offAligned, wordAligned, this, c]
  · have : off.extractLsb' 0 2 ≠ 0#2 := fun e => c (by rw [← h, e]; rfl)
    simp [offAligned, wordAligned, this, c]

@[simp] theorem mkRecord_r (f : Off12) (r : BitVec 1) (v : Byte) : (mkRecord f r v)[8] = r[0] := by
  rw [← BitVec.getLsbD_eq_getElem]
  simp only [mkRecord, BitVec.getLsbD_append]
  simp

@[simp] theorem mkRecord_v (f : Off12) (r : BitVec 1) (v : Byte) : (mkRecord f r v).extractLsb' 0 8 = v := by
  apply BitVec.eq_of_getLsbD_eq; intro i hi
  simp only [mkRecord, BitVec.getLsbD_append, BitVec.getLsbD_extractLsb']
  simp [hi]

@[simp] theorem mkRecord_f (f : Off12) (r : BitVec 1) (v : Byte) : (mkRecord f r v).extractLsb' 9 12 = f := by
  apply BitVec.eq_of_getLsbD_eq; intro i hi
  simp only [mkRecord, BitVec.getLsbD_append, BitVec.getLsbD_extractLsb', show ¬ (9 + i < 8) by omega, show (9 + i - 8 - 1 = i) by omega,show ¬ (9 + i - 8 < 1) by omega]
  simp [hi]

/-- An aligned offset below a size that is a multiple of 4 leaves room for its whole word (20 R38). -/
theorem wordAligned_room {off : Off30} {size : Nat} (ha : wordAligned off = true) (hs : size % 4 = 0)
    (h : off.toNat < size) : off.toNat + 3 < size := by
  simp only [wordAligned, decide_eq_true_eq] at ha
  omega

/-- An encoded host access decodes by the rows of its region (30 R69). -/
theorem decode_mkHaw (p : Params) (acc : Access) (r : Region) (off : Off30) :
    decode p (.haw (mkHaw acc r off)) = match r with
      | .reserved => .accErrReservedRegion acc off
      | .csr => if wordAligned off then decodeCsr acc off else .accErrMisaligned acc .csr off
      | .ibuf => if wordAligned off then decodeIbuf p acc off else .accErrMisaligned acc .ibuf off
      | .obuf => if wordAligned off then decodeObuf p acc off else .accErrMisaligned acc .obuf off := by
  cases r <;> simp [decode, decodeHaw, offAligned_eq]

/-- A CSR offset above 0x20 is unallocated (30 R69 row 3). -/
theorem decodeCsr_above (acc : Access) (off : Off30) (h : 0x20 < off.toNat) :
    decodeCsr acc off = .accErrUnallocated acc off := by
  have ne : ∀ k : Off30, k.toNat ≤ 0x20 → off ≠ k := by
    rintro k hk rfl
    omega
  cases acc <;>
    simp [decodeCsr, decodeCsrRead, decodeCsrWrite, ne 0x00#30 (by decide), ne 0x04#30 (by decide),
      ne 0x08#30 (by decide), ne 0x0C#30 (by decide), ne 0x10#30 (by decide), ne 0x14#30 (by decide),
      ne 0x18#30 (by decide), ne 0x1C#30 (by decide), ne 0x20#30 (by decide)]

end Sys2Proof
end

