-- ==== Sys2Proof/Laws/Memory.lean ====
section
/-! SUPPORT. Read after write and the canonical form of a buffer's contents. -/

namespace Sys2Proof.Machine

@[simp] theorem Memory.byteAt_nil (i : Nat) : Memory.byteAt [] i = none := rfl

theorem Memory.byteAt_cons (c : Host.Cell) (m : Memory) (i : Nat) :
    Memory.byteAt (c :: m) i = if c.1 = i then some c.2 else Memory.byteAt m i := by
  by_cases h : c.1 = i <;> simp [Memory.byteAt, h]

/-- What one byte write does to every byte. It needs no canonical form for the written byte's own value, and the rising
order for the others. -/
theorem Memory.byteAt_setByte (m : Memory) (h : m.Pairwise fun a b => a.1 < b.1) (i j : Nat) (b : Byte) :
    (m.setByte i b).byteAt j = if i = j then some b else m.byteAt j := by
  induction m with
  | nil => simp [Memory.setByte, Memory.byteAt_cons]
  | cons c m ih =>
    have hm := (List.pairwise_cons.1 h).2
    unfold Memory.setByte
    split
    · simp [Memory.byteAt_cons]
    · split
      · rename_i h1 h2
        subst h2
        by_cases hj : c.1 = j <;> simp [Memory.byteAt_cons, hj]
      · rename_i h1 h2
        by_cases hj : c.1 = j
        · have : i ≠ j := fun e => h2 (e.trans hj.symm)
          simp [Memory.byteAt_cons, hj, this]
        · simp [Memory.byteAt_cons, hj, ih hm]

theorem Memory.mem_setByte {m : Memory} {i : Nat} {b : Byte} {c : Host.Cell} (h : c ∈ m.setByte i b) :
    c = (i, b) ∨ c ∈ m := by
  induction m with
  | nil => simpa [Memory.setByte] using h
  | cons d m ih =>
    unfold Memory.setByte at h
    split at h
    · simpa using h
    · split at h
      · simp only [List.mem_cons] at h ⊢
        tauto
      · simp only [List.mem_cons] at h ⊢
        rcases h with h | h
        · tauto
        · rcases ih h with h | h <;> tauto

theorem Memory.setByte_rising (m : Memory) (h : m.Pairwise fun a b => a.1 < b.1) (i : Nat) (b : Byte) :
    (m.setByte i b).Pairwise fun a b => a.1 < b.1 := by
  induction m with
  | nil => simp [Memory.setByte]
  | cons c m ih =>
    have hc := (List.pairwise_cons.1 h).1
    have hm := (List.pairwise_cons.1 h).2
    unfold Memory.setByte
    split
    · rename_i h1
      refine List.pairwise_cons.2 ⟨fun d hd => ?_, h⟩
      rcases List.mem_cons.1 hd with rfl | hd
      · exact h1
      · exact lt_trans h1 (hc d hd)
    · split
      · rename_i h1 h2
        exact List.pairwise_cons.2 ⟨fun d hd => by simpa [h2] using hc d hd, hm⟩
      · rename_i h1 h2
        refine List.pairwise_cons.2 ⟨fun d hd => ?_, ih hm⟩
        rcases Memory.mem_setByte hd with rfl | hd
        · show c.1 < i
          omega
        · exact hc d hd

theorem Memory.wf_iff (size : Nat) (m : Memory) :
    m.wf size = true ↔ (m.Pairwise fun a b => a.1 < b.1) ∧ ∀ c ∈ m, c.1 < size := by
  simp [Memory.wf]

@[simp] theorem Memory.wf_nil (size : Nat) : Memory.wf size [] = true := by simp [Memory.wf]

theorem Memory.setByte_wf {size : Nat} {m : Memory} (h : m.wf size = true) {i : Nat} (hi : i < size) (b : Byte) :
    (m.setByte i b).wf size = true := by
  rw [Memory.wf_iff] at h ⊢
  refine ⟨Memory.setByte_rising m h.1 i b, fun c hc => ?_⟩
  rcases Memory.mem_setByte hc with rfl | hc
  · exact hi
  · exact h.2 c hc

theorem Memory.setWord_wf {size : Nat} {m : Memory} (h : m.wf size = true) {off : Nat} (ho : off + 3 < size) (d : Word) :
    (m.setWord off d).wf size = true := by
  unfold Memory.setWord
  exact Memory.setByte_wf (Memory.setByte_wf (Memory.setByte_wf (Memory.setByte_wf h (by omega) _) (by omega) _)
    (by omega) _) ho _

theorem Memory.setWord_rising {m : Memory} (h : m.Pairwise fun a b => a.1 < b.1) (off : Nat) (d : Word) :
    (m.setWord off d).Pairwise fun a b => a.1 < b.1 := by
  unfold Memory.setWord
  exact Memory.setByte_rising _ (Memory.setByte_rising _ (Memory.setByte_rising _ (Memory.setByte_rising _ h _ _) _ _) _ _) _ _

/-- What a word write does to every byte. -/
theorem Memory.byteAt_setWord (m : Memory) (h : m.Pairwise fun a b => a.1 < b.1) (off j : Nat) (d : Word) :
    (m.setWord off d).byteAt j =
      if off ≤ j ∧ j < off + 4 then some (laneOf d (j - off)) else m.byteAt j := by
  have h0 := Memory.setByte_rising m h off (laneOf d 0)
  have h1 := Memory.setByte_rising _ h0 (off + 1) (laneOf d 1)
  have h2 := Memory.setByte_rising _ h1 (off + 2) (laneOf d 2)
  unfold Memory.setWord
  rw [Memory.byteAt_setByte _ h2, Memory.byteAt_setByte _ h1, Memory.byteAt_setByte _ h0, Memory.byteAt_setByte _ h]
  by_cases c3 : off + 3 = j
  · subst c3; simp
  by_cases c2 : off + 2 = j
  · subst c2; simp
  by_cases c1 : off + 1 = j
  · subst c1; simp
  by_cases c0 : off = j
  · subst c0; simp
  have : ¬(off ≤ j ∧ j < off + 4) := by omega
  simp [c0, c1, c2, c3, this]

theorem mem_cellsFrom {i : Nat} {bs : List Byte} {c : Host.Cell} (h : c ∈ cellsFrom i bs) :
    i ≤ c.1 ∧ c.1 < i + bs.length := by
  induction bs generalizing i with
  | nil => simp [cellsFrom] at h
  | cons b bs ih =>
    rcases List.mem_cons.1 h with rfl | h
    · simp
    · have := ih h
      simp only [List.length_cons]
      omega

theorem cellsFrom_rising (i : Nat) (bs : List Byte) : (cellsFrom i bs).Pairwise fun a b => a.1 < b.1 := by
  induction bs generalizing i with
  | nil => simp [cellsFrom]
  | cons b bs ih =>
    refine List.pairwise_cons.2 ⟨fun c hc => ?_, ih (i + 1)⟩
    have := mem_cellsFrom hc
    show i < c.1
    omega

theorem byteAt_cellsFrom (i j : Nat) (bs : List Byte) :
    Memory.byteAt (cellsFrom i bs) j = if i ≤ j then bs[j - i]? else none := by
  induction bs generalizing i with
  | nil => simp [cellsFrom]
  | cons b bs ih =>
    rw [show cellsFrom i (b :: bs) = (i, b) :: cellsFrom (i + 1) bs from rfl, Memory.byteAt_cons, ih]
    by_cases h : i = j
    · subst h; simp
    · by_cases h' : i ≤ j
      · have h1 : i + 1 ≤ j := by omega
        have h2 : j - i = (j - (i + 1)) + 1 := by omega
        simp [h, h', h1, h2]
      · have h1 : ¬ i + 1 ≤ j := by omega
        simp [h, h', h1]

theorem Memory.byteAt_append (m m' : Memory) (i : Nat) :
    Memory.byteAt (m ++ m') i = (Memory.byteAt m i).or (Memory.byteAt m' i) := by
  induction m with
  | nil => simp
  | cons c m ih =>
    rw [List.cons_append, Memory.byteAt_cons, Memory.byteAt_cons, ih]
    split <;> simp

theorem Memory.byteAt_filter (m : Memory) (n i : Nat) :
    Memory.byteAt (m.filter fun c => decide (n ≤ c.1)) i = if n ≤ i then Memory.byteAt m i else none := by
  induction m with
  | nil => simp
  | cons c m ih =>
    by_cases hc : n ≤ c.1
    · rw [List.filter_cons_of_pos (by simpa using hc), Memory.byteAt_cons, Memory.byteAt_cons, ih]
      by_cases hi : c.1 = i
      · subst hi; simp [hc]
      · simp [hi]
    · rw [List.filter_cons_of_neg (by simpa using hc), ih, Memory.byteAt_cons]
      by_cases hi : c.1 = i
      · subst hi; simp [hc]
      · simp [hi]

/-- What writing a container at index 0 does to every byte: its bytes, and every byte beyond as before. -/
theorem Memory.byteAt_setFront (m : Memory) (bs : List Byte) (i : Nat) :
    (m.setFront bs).byteAt i = if i < bs.length then bs[i]? else m.byteAt i := by
  unfold Memory.setFront
  rw [Memory.byteAt_append, byteAt_cellsFrom, Memory.byteAt_filter]
  by_cases h : i < bs.length
  · simp [h]
  · have h' : bs.length ≤ i := by omega
    simp [h, h']

theorem Memory.setFront_wf {size : Nat} {m : Memory} (h : m.wf size = true) {bs : List Byte} (hb : bs.length ≤ size) :
    (m.setFront bs).wf size = true := by
  rw [Memory.wf_iff] at h ⊢
  unfold Memory.setFront
  refine ⟨List.pairwise_append.2 ⟨cellsFrom_rising 0 bs, h.1.filter _, fun a ha b hb' => ?_⟩, fun c hc => ?_⟩
  · have h1 := mem_cellsFrom ha
    have h2 : bs.length ≤ b.1 := by simpa using (List.mem_filter.1 hb').2
    omega
  · rcases List.mem_append.1 hc with hc | hc
    · have := mem_cellsFrom hc
      omega
    · exact h.2 c (List.mem_filter.1 hc).1

/-- The canonical form holds after hardware reset (70 R158). -/
theorem State.resetWith_ibuf_wf (p : Params) (size : Nat) : (State.resetWith p).ibuf.wf size = true := by
  simp [State.resetWith]

theorem State.resetWith_obuf_wf (p : Params) (size : Nat) : (State.resetWith p).obuf.wf size = true := by
  simp [State.resetWith]

/-! Byte lanes (20 R42). -/

@[simp] theorem laneOf_wordOfLanes_zero (b0 b1 b2 b3 : Byte) : laneOf (wordOfLanes b0 b1 b2 b3) 0 = b0 := by
  apply BitVec.eq_of_getLsbD_eq; intro i hi
  simp only [laneOf, wordOfLanes, BitVec.getLsbD_append, BitVec.getLsbD_extractLsb']
  simp [hi]

@[simp] theorem laneOf_wordOfLanes_one (b0 b1 b2 b3 : Byte) : laneOf (wordOfLanes b0 b1 b2 b3) 1 = b1 := by
  apply BitVec.eq_of_getLsbD_eq; intro i hi
  simp only [laneOf, wordOfLanes, BitVec.getLsbD_append, BitVec.getLsbD_extractLsb']
  simp [hi]

@[simp] theorem laneOf_wordOfLanes_two (b0 b1 b2 b3 : Byte) : laneOf (wordOfLanes b0 b1 b2 b3) 2 = b2 := by
  apply BitVec.eq_of_getLsbD_eq; intro i hi
  simp only [laneOf, wordOfLanes, BitVec.getLsbD_append, BitVec.getLsbD_extractLsb', show ¬ (8 * 2 + i < 8) by omega, show 8 * 2 + i - 8 - 8 = i by omega, show ¬ (8 * 2 + i - 8 < 8) by omega]
  simp [hi]

@[simp] theorem laneOf_wordOfLanes_three (b0 b1 b2 b3 : Byte) : laneOf (wordOfLanes b0 b1 b2 b3) 3 = b3 := by
  apply BitVec.eq_of_getLsbD_eq; intro i hi
  simp only [laneOf, wordOfLanes, BitVec.getLsbD_append, BitVec.getLsbD_extractLsb', show ¬ (8 * 3 + i < 8) by omega, show 8 * 3 + i - 8 - 8 - 8 = i by omega, show ¬ (8 * 3 + i - 8 < 8) by omega, show ¬ (8 * 3 + i - 8 - 8 < 8) by omega]
  simp [hi]

/-- Every lane of a word made of four bytes is its byte (20 R42). -/
theorem laneOf_wordOfLanes (b : Nat → Byte) (i : Nat) (h : i < 4) :
    laneOf (wordOfLanes (b 0) (b 1) (b 2) (b 3)) i = b i := by
  match i, h with
  | 0, _ => simp
  | 1, _ => simp
  | 2, _ => simp
  | 3, _ => simp

@[simp] theorem wordOfLanes_laneOf (d : Word) : wordOfLanes (laneOf d 0) (laneOf d 1) (laneOf d 2) (laneOf d 3) = d := by
  apply BitVec.eq_of_getLsbD_eq; intro i hi
  simp only [wordOfLanes, laneOf, BitVec.getLsbD_append, BitVec.getLsbD_extractLsb']
  split
  · simp_all
  · split
    · simp only [show i - 8 < 8 by omega, decide_true, Bool.true_and]; congr 1; omega
    · split
      · simp only [show i - 8 - 8 < 8 by omega, decide_true, Bool.true_and]; congr 1; omega
      · simp only [show i - 8 - 8 - 8 < 8 by omega, decide_true, Bool.true_and]; congr 1; omega

end Sys2Proof.Machine
end

