-- ==== Sys2Proof/Laws/State.lean ====
section
/-! SUPPORT. One lemma per field per update of State, so that no proof unfolds a record update. -/

namespace Sys2Proof.Machine

/-! `State.respondOkay` -/

@[simp] theorem State.respondOkay_params (s : State) : s.respondOkay.params = s.params := rfl
@[simp] theorem State.respondOkay_irqEn (s : State) : s.respondOkay.irqEn = s.irqEn := rfl
@[simp] theorem State.respondOkay_busy (s : State) : s.respondOkay.busy = s.busy := rfl
@[simp] theorem State.respondOkay_done (s : State) : s.respondOkay.done = s.done := rfl
@[simp] theorem State.respondOkay_error (s : State) : s.respondOkay.error = s.error := rfl
@[simp] theorem State.respondOkay_accErr (s : State) : s.respondOkay.accErr = s.accErr := rfl
@[simp] theorem State.respondOkay_clamp (s : State) : s.respondOkay.clamp = s.clamp := rfl
@[simp] theorem State.respondOkay_errCode (s : State) : s.respondOkay.errCode = s.errCode := rfl
@[simp] theorem State.respondOkay_key (s : State) : s.respondOkay.key = s.key := rfl
@[simp] theorem State.respondOkay_srcLen (s : State) : s.respondOkay.srcLen = s.srcLen := rfl
@[simp] theorem State.respondOkay_symCount (s : State) : s.respondOkay.symCount = s.symCount := rfl
@[simp] theorem State.respondOkay_outLen (s : State) : s.respondOkay.outLen = s.outLen := rfl
@[simp] theorem State.respondOkay_ibuf (s : State) : s.respondOkay.ibuf = s.ibuf := rfl
@[simp] theorem State.respondOkay_obuf (s : State) : s.respondOkay.obuf = s.obuf := rfl
@[simp] theorem State.respondOkay_work (s : State) : s.respondOkay.work = s.work := rfl
@[simp] theorem State.respondOkay_resp (s : State) : s.respondOkay.resp = .okay := rfl
@[simp] theorem State.respondOkay_agenda (s : State) : s.respondOkay.agenda = s.agenda := rfl
@[simp] theorem State.respondOkay_draws (s : State) : s.respondOkay.draws = s.draws := rfl
@[simp] theorem State.respondOkay_resets (s : State) : s.respondOkay.resets = s.resets := rfl

/-! `State.respondData` -/

@[simp] theorem State.respondData_params (s : State) (d : Word) : (s.respondData d).params = s.params := rfl
@[simp] theorem State.respondData_irqEn (s : State) (d : Word) : (s.respondData d).irqEn = s.irqEn := rfl
@[simp] theorem State.respondData_busy (s : State) (d : Word) : (s.respondData d).busy = s.busy := rfl
@[simp] theorem State.respondData_done (s : State) (d : Word) : (s.respondData d).done = s.done := rfl
@[simp] theorem State.respondData_error (s : State) (d : Word) : (s.respondData d).error = s.error := rfl
@[simp] theorem State.respondData_accErr (s : State) (d : Word) : (s.respondData d).accErr = s.accErr := rfl
@[simp] theorem State.respondData_clamp (s : State) (d : Word) : (s.respondData d).clamp = s.clamp := rfl
@[simp] theorem State.respondData_errCode (s : State) (d : Word) : (s.respondData d).errCode = s.errCode := rfl
@[simp] theorem State.respondData_key (s : State) (d : Word) : (s.respondData d).key = s.key := rfl
@[simp] theorem State.respondData_srcLen (s : State) (d : Word) : (s.respondData d).srcLen = s.srcLen := rfl
@[simp] theorem State.respondData_symCount (s : State) (d : Word) : (s.respondData d).symCount = s.symCount := rfl
@[simp] theorem State.respondData_outLen (s : State) (d : Word) : (s.respondData d).outLen = s.outLen := rfl
@[simp] theorem State.respondData_ibuf (s : State) (d : Word) : (s.respondData d).ibuf = s.ibuf := rfl
@[simp] theorem State.respondData_obuf (s : State) (d : Word) : (s.respondData d).obuf = s.obuf := rfl
@[simp] theorem State.respondData_work (s : State) (d : Word) : (s.respondData d).work = s.work := rfl
@[simp] theorem State.respondData_resp (s : State) (d : Word) : (s.respondData d).resp = .okayData d := rfl
@[simp] theorem State.respondData_agenda (s : State) (d : Word) : (s.respondData d).agenda = s.agenda := rfl
@[simp] theorem State.respondData_draws (s : State) (d : Word) : (s.respondData d).draws = s.draws := rfl
@[simp] theorem State.respondData_resets (s : State) (d : Word) : (s.respondData d).resets = s.resets := rfl

/-! `State.respondBuffer` -/

@[simp] theorem State.respondBuffer_params (s : State) (d : Word) : (s.respondBuffer d).params = s.params := rfl
@[simp] theorem State.respondBuffer_irqEn (s : State) (d : Word) : (s.respondBuffer d).irqEn = s.irqEn := rfl
@[simp] theorem State.respondBuffer_busy (s : State) (d : Word) : (s.respondBuffer d).busy = s.busy := rfl
@[simp] theorem State.respondBuffer_done (s : State) (d : Word) : (s.respondBuffer d).done = s.done := rfl
@[simp] theorem State.respondBuffer_error (s : State) (d : Word) : (s.respondBuffer d).error = s.error := rfl
@[simp] theorem State.respondBuffer_accErr (s : State) (d : Word) : (s.respondBuffer d).accErr = s.accErr := rfl
@[simp] theorem State.respondBuffer_clamp (s : State) (d : Word) : (s.respondBuffer d).clamp = s.clamp := rfl
@[simp] theorem State.respondBuffer_errCode (s : State) (d : Word) : (s.respondBuffer d).errCode = s.errCode := rfl
@[simp] theorem State.respondBuffer_key (s : State) (d : Word) : (s.respondBuffer d).key = s.key := rfl
@[simp] theorem State.respondBuffer_srcLen (s : State) (d : Word) : (s.respondBuffer d).srcLen = s.srcLen := rfl
@[simp] theorem State.respondBuffer_symCount (s : State) (d : Word) : (s.respondBuffer d).symCount = s.symCount := rfl
@[simp] theorem State.respondBuffer_outLen (s : State) (d : Word) : (s.respondBuffer d).outLen = s.outLen := rfl
@[simp] theorem State.respondBuffer_ibuf (s : State) (d : Word) : (s.respondBuffer d).ibuf = s.ibuf := rfl
@[simp] theorem State.respondBuffer_obuf (s : State) (d : Word) : (s.respondBuffer d).obuf = s.obuf := rfl
@[simp] theorem State.respondBuffer_work (s : State) (d : Word) : (s.respondBuffer d).work = s.work := rfl
@[simp] theorem State.respondBuffer_resp (s : State) (d : Word) : (s.respondBuffer d).resp = .okayData d := rfl
@[simp] theorem State.respondBuffer_agenda (s : State) (d : Word) : (s.respondBuffer d).agenda = s.agenda := rfl
@[simp] theorem State.respondBuffer_draws (s : State) (d : Word) : (s.respondBuffer d).draws = s.draws + 4 := rfl
@[simp] theorem State.respondBuffer_resets (s : State) (d : Word) : (s.respondBuffer d).resets = s.resets := rfl

/-! `State.accessError` -/

@[simp] theorem State.accessError_params (s : State) (r : AccessReason) : (s.accessError r).params = s.params := rfl
@[simp] theorem State.accessError_irqEn (s : State) (r : AccessReason) : (s.accessError r).irqEn = s.irqEn := rfl
@[simp] theorem State.accessError_busy (s : State) (r : AccessReason) : (s.accessError r).busy = s.busy := rfl
@[simp] theorem State.accessError_done (s : State) (r : AccessReason) : (s.accessError r).done = s.done := rfl
@[simp] theorem State.accessError_error (s : State) (r : AccessReason) : (s.accessError r).error = s.error := rfl
@[simp] theorem State.accessError_accErr (s : State) (r : AccessReason) : (s.accessError r).accErr = true := rfl
@[simp] theorem State.accessError_clamp (s : State) (r : AccessReason) : (s.accessError r).clamp = s.clamp := rfl
@[simp] theorem State.accessError_errCode (s : State) (r : AccessReason) : (s.accessError r).errCode = s.errCode := rfl
@[simp] theorem State.accessError_key (s : State) (r : AccessReason) : (s.accessError r).key = s.key := rfl
@[simp] theorem State.accessError_srcLen (s : State) (r : AccessReason) : (s.accessError r).srcLen = s.srcLen := rfl
@[simp] theorem State.accessError_symCount (s : State) (r : AccessReason) : (s.accessError r).symCount = s.symCount := rfl
@[simp] theorem State.accessError_outLen (s : State) (r : AccessReason) : (s.accessError r).outLen = s.outLen := rfl
@[simp] theorem State.accessError_ibuf (s : State) (r : AccessReason) : (s.accessError r).ibuf = s.ibuf := rfl
@[simp] theorem State.accessError_obuf (s : State) (r : AccessReason) : (s.accessError r).obuf = s.obuf := rfl
@[simp] theorem State.accessError_work (s : State) (r : AccessReason) : (s.accessError r).work = s.work := rfl
@[simp] theorem State.accessError_resp (s : State) (r : AccessReason) : (s.accessError r).resp = .err 0#32 := rfl
@[simp] theorem State.accessError_agenda (s : State) (r : AccessReason) : (s.accessError r).agenda = s.agenda := rfl
@[simp] theorem State.accessError_draws (s : State) (r : AccessReason) : (s.accessError r).draws = s.draws := rfl
@[simp] theorem State.accessError_resets (s : State) (r : AccessReason) : (s.accessError r).resets = s.resets := rfl

/-! `State.runError` -/

@[simp] theorem State.runError_params (s : State) (e : RunError) : (s.runError e).params = s.params := rfl
@[simp] theorem State.runError_irqEn (s : State) (e : RunError) : (s.runError e).irqEn = s.irqEn := rfl
@[simp] theorem State.runError_busy (s : State) (e : RunError) : (s.runError e).busy = false := rfl
@[simp] theorem State.runError_done (s : State) (e : RunError) : (s.runError e).done = false := rfl
@[simp] theorem State.runError_error (s : State) (e : RunError) : (s.runError e).error = true := rfl
@[simp] theorem State.runError_accErr (s : State) (e : RunError) : (s.runError e).accErr = s.accErr := rfl
@[simp] theorem State.runError_clamp (s : State) (e : RunError) : (s.runError e).clamp = false := rfl
@[simp] theorem State.runError_errCode (s : State) (e : RunError) : (s.runError e).errCode = e.code := rfl
@[simp] theorem State.runError_key (s : State) (e : RunError) : (s.runError e).key = s.key := rfl
@[simp] theorem State.runError_srcLen (s : State) (e : RunError) : (s.runError e).srcLen = s.srcLen := rfl
@[simp] theorem State.runError_symCount (s : State) (e : RunError) : (s.runError e).symCount = BitVec.ofNat 32 e.symCount := rfl
@[simp] theorem State.runError_outLen (s : State) (e : RunError) : (s.runError e).outLen = BitVec.ofNat 32 e.outLen := rfl
@[simp] theorem State.runError_ibuf (s : State) (e : RunError) : (s.runError e).ibuf = s.ibuf := rfl
@[simp] theorem State.runError_obuf (s : State) (e : RunError) : (s.runError e).obuf = [] := rfl
@[simp] theorem State.runError_work (s : State) (e : RunError) : (s.runError e).work = s.work := rfl
@[simp] theorem State.runError_resp (s : State) (e : RunError) : (s.runError e).resp = s.resp := rfl
@[simp] theorem State.runError_agenda (s : State) (e : RunError) : (s.runError e).agenda = s.agenda := rfl
@[simp] theorem State.runError_draws (s : State) (e : RunError) : (s.runError e).draws = s.draws := rfl
@[simp] theorem State.runError_resets (s : State) (e : RunError) : (s.runError e).resets = s.resets := rfl

/-! `State.acknowledge` -/

@[simp] theorem State.acknowledge_params (s : State) (d : Word) : (s.acknowledge d).params = s.params := rfl
@[simp] theorem State.acknowledge_irqEn (s : State) (d : Word) : (s.acknowledge d).irqEn = s.irqEn := rfl
@[simp] theorem State.acknowledge_busy (s : State) (d : Word) : (s.acknowledge d).busy = s.busy := rfl
@[simp] theorem State.acknowledge_done (s : State) (d : Word) : (s.acknowledge d).done = (s.done && !clearsDone d) := rfl
@[simp] theorem State.acknowledge_error (s : State) (d : Word) : (s.acknowledge d).error = (s.error && !clearsError d) := rfl
@[simp] theorem State.acknowledge_accErr (s : State) (d : Word) : (s.acknowledge d).accErr = (s.accErr && !clearsAccErr d) := rfl
@[simp] theorem State.acknowledge_clamp (s : State) (d : Word) : (s.acknowledge d).clamp = s.clamp := rfl
@[simp] theorem State.acknowledge_errCode (s : State) (d : Word) : (s.acknowledge d).errCode = if clearsError d then 0#4 else s.errCode := rfl
@[simp] theorem State.acknowledge_key (s : State) (d : Word) : (s.acknowledge d).key = s.key := rfl
@[simp] theorem State.acknowledge_srcLen (s : State) (d : Word) : (s.acknowledge d).srcLen = s.srcLen := rfl
@[simp] theorem State.acknowledge_symCount (s : State) (d : Word) : (s.acknowledge d).symCount = s.symCount := rfl
@[simp] theorem State.acknowledge_outLen (s : State) (d : Word) : (s.acknowledge d).outLen = s.outLen := rfl
@[simp] theorem State.acknowledge_ibuf (s : State) (d : Word) : (s.acknowledge d).ibuf = s.ibuf := rfl
@[simp] theorem State.acknowledge_obuf (s : State) (d : Word) : (s.acknowledge d).obuf = s.obuf := rfl
@[simp] theorem State.acknowledge_work (s : State) (d : Word) : (s.acknowledge d).work = s.work := rfl
@[simp] theorem State.acknowledge_resp (s : State) (d : Word) : (s.acknowledge d).resp = s.resp := rfl
@[simp] theorem State.acknowledge_agenda (s : State) (d : Word) : (s.acknowledge d).agenda = s.agenda := rfl
@[simp] theorem State.acknowledge_draws (s : State) (d : Word) : (s.acknowledge d).draws = s.draws := rfl
@[simp] theorem State.acknowledge_resets (s : State) (d : Word) : (s.acknowledge d).resets = s.resets := rfl

/-! `State.softReset` -/

@[simp] theorem State.softReset_params (s : State) : s.softReset.params = s.params := rfl
@[simp] theorem State.softReset_irqEn (s : State) : s.softReset.irqEn = false := rfl
@[simp] theorem State.softReset_busy (s : State) : s.softReset.busy = false := rfl
@[simp] theorem State.softReset_done (s : State) : s.softReset.done = false := rfl
@[simp] theorem State.softReset_error (s : State) : s.softReset.error = false := rfl
@[simp] theorem State.softReset_accErr (s : State) : s.softReset.accErr = false := rfl
@[simp] theorem State.softReset_clamp (s : State) : s.softReset.clamp = false := rfl
@[simp] theorem State.softReset_errCode (s : State) : s.softReset.errCode = 0#4 := rfl
@[simp] theorem State.softReset_key (s : State) : s.softReset.key = 0#32 := rfl
@[simp] theorem State.softReset_srcLen (s : State) : s.softReset.srcLen = 0#32 := rfl
@[simp] theorem State.softReset_symCount (s : State) : s.softReset.symCount = 0#32 := rfl
@[simp] theorem State.softReset_outLen (s : State) : s.softReset.outLen = 0#32 := rfl
@[simp] theorem State.softReset_ibuf (s : State) : s.softReset.ibuf = s.ibuf := rfl
@[simp] theorem State.softReset_obuf (s : State) : s.softReset.obuf = [] := rfl
@[simp] theorem State.softReset_work (s : State) : s.softReset.work = Work.initial := rfl
@[simp] theorem State.softReset_resp (s : State) : s.softReset.resp = s.resp := rfl
@[simp] theorem State.softReset_agenda (s : State) : s.softReset.agenda = s.agenda := rfl
@[simp] theorem State.softReset_draws (s : State) : s.softReset.draws = s.draws := rfl
@[simp] theorem State.softReset_resets (s : State) : s.softReset.resets = s.resets := rfl

/-! `State.hardReset` -/

@[simp] theorem State.hardReset_params (s : State) : s.hardReset.params = s.params := rfl
@[simp] theorem State.hardReset_irqEn (s : State) : s.hardReset.irqEn = false := rfl
@[simp] theorem State.hardReset_busy (s : State) : s.hardReset.busy = false := rfl
@[simp] theorem State.hardReset_done (s : State) : s.hardReset.done = false := rfl
@[simp] theorem State.hardReset_error (s : State) : s.hardReset.error = false := rfl
@[simp] theorem State.hardReset_accErr (s : State) : s.hardReset.accErr = false := rfl
@[simp] theorem State.hardReset_clamp (s : State) : s.hardReset.clamp = false := rfl
@[simp] theorem State.hardReset_errCode (s : State) : s.hardReset.errCode = 0#4 := rfl
@[simp] theorem State.hardReset_key (s : State) : s.hardReset.key = 0#32 := rfl
@[simp] theorem State.hardReset_srcLen (s : State) : s.hardReset.srcLen = 0#32 := rfl
@[simp] theorem State.hardReset_symCount (s : State) : s.hardReset.symCount = 0#32 := rfl
@[simp] theorem State.hardReset_outLen (s : State) : s.hardReset.outLen = 0#32 := rfl
@[simp] theorem State.hardReset_ibuf (s : State) : s.hardReset.ibuf = [] := rfl
@[simp] theorem State.hardReset_obuf (s : State) : s.hardReset.obuf = [] := rfl
@[simp] theorem State.hardReset_work (s : State) : s.hardReset.work = Work.initial := rfl
@[simp] theorem State.hardReset_resp (s : State) : s.hardReset.resp = .none := rfl
@[simp] theorem State.hardReset_agenda (s : State) : s.hardReset.agenda = s.agenda := rfl
@[simp] theorem State.hardReset_draws (s : State) : s.hardReset.draws = s.draws := rfl
@[simp] theorem State.hardReset_resets (s : State) : s.hardReset.resets = s.resets + 1 := rfl

/-! `State.startRun` -/

@[simp] theorem State.startRun_params (s : State) (d : Word) : (s.startRun d).params = s.params := rfl
@[simp] theorem State.startRun_irqEn (s : State) (d : Word) : (s.startRun d).irqEn = ctrlIrqEn d := rfl
@[simp] theorem State.startRun_busy (s : State) (d : Word) : (s.startRun d).busy = true := rfl
@[simp] theorem State.startRun_done (s : State) (d : Word) : (s.startRun d).done = false := rfl
@[simp] theorem State.startRun_error (s : State) (d : Word) : (s.startRun d).error = false := rfl
@[simp] theorem State.startRun_accErr (s : State) (d : Word) : (s.startRun d).accErr = s.accErr := rfl
@[simp] theorem State.startRun_clamp (s : State) (d : Word) : (s.startRun d).clamp = false := rfl
@[simp] theorem State.startRun_errCode (s : State) (d : Word) : (s.startRun d).errCode = 0#4 := rfl
@[simp] theorem State.startRun_key (s : State) (d : Word) : (s.startRun d).key = s.key := rfl
@[simp] theorem State.startRun_srcLen (s : State) (d : Word) : (s.startRun d).srcLen = s.srcLen := rfl
@[simp] theorem State.startRun_symCount (s : State) (d : Word) : (s.startRun d).symCount = 0#32 := rfl
@[simp] theorem State.startRun_outLen (s : State) (d : Word) : (s.startRun d).outLen = 0#32 := rfl
@[simp] theorem State.startRun_ibuf (s : State) (d : Word) : (s.startRun d).ibuf = s.ibuf := rfl
@[simp] theorem State.startRun_obuf (s : State) (d : Word) : (s.startRun d).obuf = s.obuf := rfl
@[simp] theorem State.startRun_work (s : State) (d : Word) : (s.startRun d).work = s.work := rfl
@[simp] theorem State.startRun_resp (s : State) (d : Word) : (s.startRun d).resp = s.resp := rfl
@[simp] theorem State.startRun_agenda (s : State) (d : Word) : (s.startRun d).agenda = s.agenda := rfl
@[simp] theorem State.startRun_draws (s : State) (d : Word) : (s.startRun d).draws = s.draws := rfl
@[simp] theorem State.startRun_resets (s : State) (d : Word) : (s.startRun d).resets = s.resets := rfl

/-! `State.finishRun` -/

@[simp] theorem State.finishRun_params (s : State) (e : Encoded) : (s.finishRun e).params = s.params := rfl
@[simp] theorem State.finishRun_irqEn (s : State) (e : Encoded) : (s.finishRun e).irqEn = s.irqEn := rfl
@[simp] theorem State.finishRun_busy (s : State) (e : Encoded) : (s.finishRun e).busy = false := rfl
@[simp] theorem State.finishRun_done (s : State) (e : Encoded) : (s.finishRun e).done = true := rfl
@[simp] theorem State.finishRun_error (s : State) (e : Encoded) : (s.finishRun e).error = s.error := rfl
@[simp] theorem State.finishRun_accErr (s : State) (e : Encoded) : (s.finishRun e).accErr = s.accErr := rfl
@[simp] theorem State.finishRun_clamp (s : State) (e : Encoded) : (s.finishRun e).clamp = e.clamped := rfl
@[simp] theorem State.finishRun_errCode (s : State) (e : Encoded) : (s.finishRun e).errCode = s.errCode := rfl
@[simp] theorem State.finishRun_key (s : State) (e : Encoded) : (s.finishRun e).key = s.key := rfl
@[simp] theorem State.finishRun_srcLen (s : State) (e : Encoded) : (s.finishRun e).srcLen = s.srcLen := rfl
@[simp] theorem State.finishRun_symCount (s : State) (e : Encoded) : (s.finishRun e).symCount = BitVec.ofNat 32 e.symCount := rfl
@[simp] theorem State.finishRun_outLen (s : State) (e : Encoded) : (s.finishRun e).outLen = BitVec.ofNat 32 e.container.length := rfl
@[simp] theorem State.finishRun_ibuf (s : State) (e : Encoded) : (s.finishRun e).ibuf = s.ibuf := rfl
@[simp] theorem State.finishRun_obuf (s : State) (e : Encoded) : (s.finishRun e).obuf = s.obuf.setFront e.container := rfl
@[simp] theorem State.finishRun_work (s : State) (e : Encoded) : (s.finishRun e).work = s.work := rfl
@[simp] theorem State.finishRun_resp (s : State) (e : Encoded) : (s.finishRun e).resp = s.resp := rfl
@[simp] theorem State.finishRun_agenda (s : State) (e : Encoded) : (s.finishRun e).agenda = s.agenda := rfl
@[simp] theorem State.finishRun_draws (s : State) (e : Encoded) : (s.finishRun e).draws = s.draws := rfl
@[simp] theorem State.finishRun_resets (s : State) (e : Encoded) : (s.finishRun e).resets = s.resets := rfl

/-! `State.packRecord` -/

@[simp] theorem State.packRecord_params (s : State) (m : Match) : (s.packRecord m).params = s.params := rfl
@[simp] theorem State.packRecord_irqEn (s : State) (m : Match) : (s.packRecord m).irqEn = s.irqEn := rfl
@[simp] theorem State.packRecord_busy (s : State) (m : Match) : (s.packRecord m).busy = s.busy := rfl
@[simp] theorem State.packRecord_done (s : State) (m : Match) : (s.packRecord m).done = s.done := rfl
@[simp] theorem State.packRecord_error (s : State) (m : Match) : (s.packRecord m).error = s.error := rfl
@[simp] theorem State.packRecord_accErr (s : State) (m : Match) : (s.packRecord m).accErr = s.accErr := rfl
@[simp] theorem State.packRecord_clamp (s : State) (m : Match) : (s.packRecord m).clamp = s.clamp := rfl
@[simp] theorem State.packRecord_errCode (s : State) (m : Match) : (s.packRecord m).errCode = s.errCode := rfl
@[simp] theorem State.packRecord_key (s : State) (m : Match) : (s.packRecord m).key = s.key := rfl
@[simp] theorem State.packRecord_srcLen (s : State) (m : Match) : (s.packRecord m).srcLen = s.srcLen := rfl
@[simp] theorem State.packRecord_symCount (s : State) (m : Match) : (s.packRecord m).symCount = s.symCount := rfl
@[simp] theorem State.packRecord_outLen (s : State) (m : Match) : (s.packRecord m).outLen = s.outLen := rfl
@[simp] theorem State.packRecord_ibuf (s : State) (m : Match) : (s.packRecord m).ibuf = s.ibuf := rfl
@[simp] theorem State.packRecord_obuf (s : State) (m : Match) : (s.packRecord m).obuf = s.obuf := rfl
@[simp] theorem State.packRecord_work (s : State) (m : Match) : (s.packRecord m).work = { s.work with writer := packMatch s.work.code s.work.depth s.work.writer m } := rfl
@[simp] theorem State.packRecord_resp (s : State) (m : Match) : (s.packRecord m).resp = s.resp := rfl
@[simp] theorem State.packRecord_agenda (s : State) (m : Match) : (s.packRecord m).agenda = s.agenda := rfl
@[simp] theorem State.packRecord_draws (s : State) (m : Match) : (s.packRecord m).draws = s.draws := rfl
@[simp] theorem State.packRecord_resets (s : State) (m : Match) : (s.packRecord m).resets = s.resets := rfl

/-! `State.advance` -/

@[simp] theorem State.advance_params (s : State) : s.advance.params = s.params := rfl
@[simp] theorem State.advance_irqEn (s : State) : s.advance.irqEn = s.irqEn := rfl
@[simp] theorem State.advance_busy (s : State) : s.advance.busy = s.busy := rfl
@[simp] theorem State.advance_done (s : State) : s.advance.done = s.done := rfl
@[simp] theorem State.advance_error (s : State) : s.advance.error = s.error := rfl
@[simp] theorem State.advance_accErr (s : State) : s.advance.accErr = s.accErr := rfl
@[simp] theorem State.advance_clamp (s : State) : s.advance.clamp = s.clamp := rfl
@[simp] theorem State.advance_errCode (s : State) : s.advance.errCode = s.errCode := rfl
@[simp] theorem State.advance_key (s : State) : s.advance.key = s.key := rfl
@[simp] theorem State.advance_srcLen (s : State) : s.advance.srcLen = s.srcLen := rfl
@[simp] theorem State.advance_symCount (s : State) : s.advance.symCount = s.symCount := rfl
@[simp] theorem State.advance_outLen (s : State) : s.advance.outLen = s.outLen := rfl
@[simp] theorem State.advance_ibuf (s : State) : s.advance.ibuf = s.ibuf := rfl
@[simp] theorem State.advance_obuf (s : State) : s.advance.obuf = s.obuf := rfl
@[simp] theorem State.advance_work (s : State) : s.advance.work = s.work := rfl
@[simp] theorem State.advance_resp (s : State) : s.advance.resp = s.resp := rfl
@[simp] theorem State.advance_agenda (s : State) : s.advance.agenda = s.agenda.tail := rfl
@[simp] theorem State.advance_draws (s : State) : s.advance.draws = s.draws := rfl
@[simp] theorem State.advance_resets (s : State) : s.advance.resets = s.resets := rfl

end Sys2Proof.Machine
end

