-- ==== Sys2Proof/Laws/Ops.lean ====
section
/-! SUPPORT. What each shared operation can do, said once. -/

namespace Sys2Proof.Machine

/-- The BUSY guard (40 R74): refused during a run, performed otherwise. -/
theorem State.unlessBusy_cases (s t : State) :
    (s.busy = true ∧ s.unlessBusy t = s.accessError .busyWrite) ∨ (s.busy = false ∧ s.unlessBusy t = t) := by
  cases h : s.busy <;> simp [State.unlessBusy, h]

@[simp] theorem State.unlessBusy_running (s t : State) (h : s.busy = true) :
    s.unlessBusy t = s.accessError .busyWrite := by simp [State.unlessBusy, h]

@[simp] theorem State.unlessBusy_idle (s t : State) (h : s.busy = false) : s.unlessBusy t = t := by
  simp [State.unlessBusy, h]

/-- A run that has its container either overflows OBUF or ends well (46 R136). -/
theorem State.deliver_cases (s : State) (e : Encoded) :
    (s.params.obufSize.toNat < e.container.length ∧
        s.deliver e = s.runError (.obufOverflow e.symCount e.container.length)) ∨
      (e.container.length ≤ s.params.obufSize.toNat ∧ s.deliver e = s.finishRun e) := by
  unfold State.deliver
  split
  · exact .inl ⟨‹_›, rfl⟩
  · exact .inr ⟨by omega, rfl⟩

/-- The completion step ends a run in one of three ways (46 R136). -/
theorem State.complete_cases (s : State) :
    (s.params.ibufSize.toNat < s.srcLen.toNat ∧ s.complete = s.runError .lenRange) ∨
      (s.srcLen.toNat ≤ s.params.ibufSize.toNat ∧
        s.complete = { s with work := runUnits s.payload s.key }.deliver (encodePayload s.payload s.key)) := by
  unfold State.complete
  split
  · exact .inl ⟨‹_›, rfl⟩
  · exact .inr ⟨by omega, rfl⟩

/-- A payload and a container that fit end the run well (46 R136). -/
theorem State.complete_fits (s : State) (hs : s.srcLen.toNat ≤ s.params.ibufSize.toNat)
    (hc : (encodePayload s.payload s.key).container.length ≤ s.params.obufSize.toNat) :
    s.complete = { s with work := runUnits s.payload s.key }.finishRun (encodePayload s.payload s.key) := by
  unfold State.complete
  rw [if_neg (by omega)]
  unfold State.deliver
  rw [if_neg (by simpa using hc)]

/-- A container that does not fit ends the run in OBUF_OVERFLOW (60 R141). -/
theorem State.complete_overflows (s : State) (hs : s.srcLen.toNat ≤ s.params.ibufSize.toNat)
    (hc : s.params.obufSize.toNat < (encodePayload s.payload s.key).container.length) :
    s.complete = { s with work := runUnits s.payload s.key }.runError
      (.obufOverflow (encodePayload s.payload s.key).symCount (encodePayload s.payload s.key).container.length) := by
  unfold State.complete
  rw [if_neg (by omega)]
  unfold State.deliver
  rw [if_pos (by simpa using hc)]

/-- The engine's turn is the completion step during a run, and nothing otherwise (10 R14). -/
theorem State.engineStep_cases (s : State) :
    (s.busy = true ∧ s.engineStep = s.complete) ∨ (s.busy = false ∧ s.engineStep = s) := by
  cases h : s.busy <;> simp [State.engineStep, h]

/-- The engine's turn during a run is its completion step (46 R136). -/
theorem step_completes {s : State} {rest : List Event} (ha : s.agenda = .engine :: rest) (hb : s.busy = true) :
    step s = .next s.advance.complete := by
  unfold step
  rw [ha]
  simp [State.engineStep, State.advance, hb]

/-- Everything a step can do. -/
theorem step_cases {s t : State} (h : step s = .next t) :
    (s.agenda = [] ∧ t = s.engineStep) ∨
      (∃ c rest, s.agenda = .issue c :: rest ∧ exec (decode s.params c) s.advance = .next t) ∨
      (∃ rest, s.agenda = .engine :: rest ∧ t = s.advance.engineStep) ∨
      (∃ rest, s.agenda = .hardReset :: rest ∧ t = s.advance.hardReset) := by
  unfold step at h
  split at h
  · rename_i ha
    exact .inl ⟨ha, by cases h; rfl⟩
  · rename_i c rest ha
    exact .inr (.inl ⟨c, rest, ha, h⟩)
  · rename_i rest ha
    exact .inr (.inr (.inl ⟨rest, ha, by cases h; rfl⟩))
  · rename_i rest ha
    exact .inr (.inr (.inr ⟨rest, ha, by cases h; rfl⟩))

end Sys2Proof.Machine
end

