-- ==== Sys2Proof/Laws/PerInstr.lean ====
section
/-! SUPPORT. What holds of every instruction as a term of the encoding, one lemma per constructor. -/

namespace Sys2Proof.Laws

/-- Whether a row of the opcode table is a host access (format HAW) and not a symbol record. -/
def isHostAccess : Instr → Bool
  | .accErrReservedRegion _ _ => true
  | .accErrMisaligned _ _ _ => true
  | .accErrUnallocated _ _ => true
  | .accErrOutOfRange _ _ _ => true
  | .rdId => true
  | .rdCtrl => true
  | .rdStatus => true
  | .rdKey => true
  | .rdSrcLen => true
  | .rdSymCount => true
  | .rdOutLen => true
  | .rdIbufSize => true
  | .rdObufSize => true
  | .wrRoId _ => true
  | .wrRoSymCount _ => true
  | .wrRoOutLen _ => true
  | .wrRoIbufSize _ => true
  | .wrRoObufSize _ => true
  | .cmdSoftReset _ => true
  | .cmdStart _ => true
  | .wrCtrl _ => true
  | .wrStatus _ => true
  | .wrKey _ => true
  | .wrSrcLen _ => true
  | .rdIbuf _ => true
  | .wrIbuf _ _ => true
  | .rdObuf _ => true
  | .wrObuf _ _ => true
  | .lit _ => false
  | .ref _ _ => false
  | .refL2 _ => false

/-- The encoder gives every instruction the format of its row: the host accesses the 65-bit word of some access, region and
offset (30 R66), the others a symbol record (30 R56). -/
def Formats.Statement (i : Instr) : Prop :=
  (isHostAccess i = true → ∃ acc r off, encode i = .haw (mkHaw acc r off)) ∧
    (isHostAccess i = false → ∃ f r v, encode i = .record (mkRecord f r v))

theorem Formats.accErrReservedRegion (acc : Access) (off : Off30) : Formats.Statement (.accErrReservedRegion acc off) :=
  ⟨fun _ => ⟨_, _, _, rfl⟩, by simp [isHostAccess]⟩

theorem Formats.accErrMisaligned (acc : Access) (region : Region) (off : Off30) : Formats.Statement (.accErrMisaligned acc region off) :=
  ⟨fun _ => ⟨_, _, _, rfl⟩, by simp [isHostAccess]⟩

theorem Formats.accErrUnallocated (acc : Access) (off : Off30) : Formats.Statement (.accErrUnallocated acc off) :=
  ⟨fun _ => ⟨_, _, _, rfl⟩, by simp [isHostAccess]⟩

theorem Formats.accErrOutOfRange (acc : Access) (region : Region) (off : Off30) : Formats.Statement (.accErrOutOfRange acc region off) :=
  ⟨fun _ => ⟨_, _, _, rfl⟩, by simp [isHostAccess]⟩

theorem Formats.rdId : Formats.Statement (.rdId) :=
  ⟨fun _ => ⟨_, _, _, rfl⟩, by simp [isHostAccess]⟩

theorem Formats.rdCtrl : Formats.Statement (.rdCtrl) :=
  ⟨fun _ => ⟨_, _, _, rfl⟩, by simp [isHostAccess]⟩

theorem Formats.rdStatus : Formats.Statement (.rdStatus) :=
  ⟨fun _ => ⟨_, _, _, rfl⟩, by simp [isHostAccess]⟩

theorem Formats.rdKey : Formats.Statement (.rdKey) :=
  ⟨fun _ => ⟨_, _, _, rfl⟩, by simp [isHostAccess]⟩

theorem Formats.rdSrcLen : Formats.Statement (.rdSrcLen) :=
  ⟨fun _ => ⟨_, _, _, rfl⟩, by simp [isHostAccess]⟩

theorem Formats.rdSymCount : Formats.Statement (.rdSymCount) :=
  ⟨fun _ => ⟨_, _, _, rfl⟩, by simp [isHostAccess]⟩

theorem Formats.rdOutLen : Formats.Statement (.rdOutLen) :=
  ⟨fun _ => ⟨_, _, _, rfl⟩, by simp [isHostAccess]⟩

theorem Formats.rdIbufSize : Formats.Statement (.rdIbufSize) :=
  ⟨fun _ => ⟨_, _, _, rfl⟩, by simp [isHostAccess]⟩

theorem Formats.rdObufSize : Formats.Statement (.rdObufSize) :=
  ⟨fun _ => ⟨_, _, _, rfl⟩, by simp [isHostAccess]⟩

theorem Formats.wrRoId (data : Word) : Formats.Statement (.wrRoId data) :=
  ⟨fun _ => ⟨_, _, _, rfl⟩, by simp [isHostAccess]⟩

theorem Formats.wrRoSymCount (data : Word) : Formats.Statement (.wrRoSymCount data) :=
  ⟨fun _ => ⟨_, _, _, rfl⟩, by simp [isHostAccess]⟩

theorem Formats.wrRoOutLen (data : Word) : Formats.Statement (.wrRoOutLen data) :=
  ⟨fun _ => ⟨_, _, _, rfl⟩, by simp [isHostAccess]⟩

theorem Formats.wrRoIbufSize (data : Word) : Formats.Statement (.wrRoIbufSize data) :=
  ⟨fun _ => ⟨_, _, _, rfl⟩, by simp [isHostAccess]⟩

theorem Formats.wrRoObufSize (data : Word) : Formats.Statement (.wrRoObufSize data) :=
  ⟨fun _ => ⟨_, _, _, rfl⟩, by simp [isHostAccess]⟩

theorem Formats.cmdSoftReset (data : Word) : Formats.Statement (.cmdSoftReset data) :=
  ⟨fun _ => ⟨_, _, _, rfl⟩, by simp [isHostAccess]⟩

theorem Formats.cmdStart (data : Word) : Formats.Statement (.cmdStart data) :=
  ⟨fun _ => ⟨_, _, _, rfl⟩, by simp [isHostAccess]⟩

theorem Formats.wrCtrl (data : Word) : Formats.Statement (.wrCtrl data) :=
  ⟨fun _ => ⟨_, _, _, rfl⟩, by simp [isHostAccess]⟩

theorem Formats.wrStatus (data : Word) : Formats.Statement (.wrStatus data) :=
  ⟨fun _ => ⟨_, _, _, rfl⟩, by simp [isHostAccess]⟩

theorem Formats.wrKey (data : Word) : Formats.Statement (.wrKey data) :=
  ⟨fun _ => ⟨_, _, _, rfl⟩, by simp [isHostAccess]⟩

theorem Formats.wrSrcLen (data : Word) : Formats.Statement (.wrSrcLen data) :=
  ⟨fun _ => ⟨_, _, _, rfl⟩, by simp [isHostAccess]⟩

theorem Formats.rdIbuf (off : Off30) : Formats.Statement (.rdIbuf off) :=
  ⟨fun _ => ⟨_, _, _, rfl⟩, by simp [isHostAccess]⟩

theorem Formats.wrIbuf (off : Off30) (data : Word) : Formats.Statement (.wrIbuf off data) :=
  ⟨fun _ => ⟨_, _, _, rfl⟩, by simp [isHostAccess]⟩

theorem Formats.rdObuf (off : Off30) : Formats.Statement (.rdObuf off) :=
  ⟨fun _ => ⟨_, _, _, rfl⟩, by simp [isHostAccess]⟩

theorem Formats.wrObuf (off : Off30) (data : Word) : Formats.Statement (.wrObuf off data) :=
  ⟨fun _ => ⟨_, _, _, rfl⟩, by simp [isHostAccess]⟩

theorem Formats.lit (v : Byte) : Formats.Statement (.lit v) :=
  ⟨by simp [isHostAccess], fun _ => ⟨_, _, _, rfl⟩⟩

theorem Formats.ref (v : Byte) (f : Off12) : Formats.Statement (.ref v f) :=
  ⟨by simp [isHostAccess], fun _ => ⟨_, _, _, rfl⟩⟩

theorem Formats.refL2 (f : Off12) : Formats.Statement (.refL2 f) :=
  ⟨by simp [isHostAccess], fun _ => ⟨_, _, _, rfl⟩⟩

end Sys2Proof.Laws
end

