-- ==== Sys2Proof/Laws/Units.lean ====
section
/-! SUPPORT. Sizes of the six units' tables, and what the bit writer's operations add to its stream. -/

namespace Sys2Proof.Machine

theorem ksRun_length (n : Nat) (s : Word) : (ksRun n s).2.length = n := by
  induction n generalizing s with
  | zero => rfl
  | succ n ih => simp [ksRun, ih]

@[simp] theorem ksSeq_length (k : Word) : (ksSeq k).length = ksSteps := ksRun_length ksSteps k

theorem ksEncrypt_length (depth ks : List Byte) : (ksEncrypt depth ks).length = min depth.length ks.length := by
  simp [ksEncrypt]

@[simp] theorem count_length (s : List Match) : (count s).length = alphabet := by simp [count]

@[simp] theorem depthTable_length (raw : List (Sym × Nat)) : (depthTable raw).length = alphabet := by
  simp [depthTable]

@[simp] theorem buildFromFreq_depth_length (freq : List Nat) : (buildFromFreq freq).depth.length = alphabet := by
  simp [buildFromFreq]

@[simp] theorem buildDepths_depth_length (s : List Match) : (buildDepths s).depth.length = alphabet := by
  simp [buildDepths]

@[simp] theorem assignCodes_length (depth : List Byte) : (assignCodes depth).length = alphabet := by
  simp [assignCodes, codeTable]

@[simp] theorem bitsMsb_length (v w : Nat) : (bitsMsb v w).length = w := by
  induction w with
  | zero => rfl
  | succ w ih => simp [bitsMsb, ih]

theorem natOfBits_concat (l : List Bool) (b : Bool) : natOfBits (l ++ [b]) = 2 * natOfBits l + b.toNat := by
  simp [natOfBits]

theorem natOfBits_lt (l : List Bool) : natOfBits l < 2 ^ l.length := by
  induction l using List.reverseRecOn with
  | nil => simp [natOfBits]
  | append_singleton l b ih =>
    rw [natOfBits_concat, List.length_append, List.length_singleton, pow_succ]
    cases b <;> simp <;> omega

theorem bitsMsb_double (n : Nat) (b : Bool) (w : Nat) : bitsMsb (2 * n + b.toNat) (w + 1) = bitsMsb n w ++ [b] := by
  induction w with
  | zero => cases b <;> simp [bitsMsb]
  | succ w ih =>
    have h : (2 * n + b.toNat).testBit (w + 1) = n.testBit w := by
      have : (2 * n + b.toNat) / 2 = n := by cases b <;> simp <;> omega
      rw [Nat.testBit_succ, this]
    rw [bitsMsb, ih, h]
    rfl

/-- Writing the bits of a number back gives them. -/
theorem bitsMsb_natOfBits (l : List Bool) : bitsMsb (natOfBits l) l.length = l := by
  induction l using List.reverseRecOn with
  | nil => rfl
  | append_singleton l b ih =>
    rw [natOfBits_concat, List.length_append, List.length_singleton, bitsMsb_double, ih]

/-- The bits of the byte that eight bits make are those bits (45 R121). -/
theorem bitsMsb_byteOfBits (l : List Bool) (h : l.length = 8) : bitsMsb (byteOfBits l).toNat 8 = l := by
  have hl := natOfBits_lt l
  rw [h] at hl
  have : (byteOfBits l).toNat = natOfBits l := by
    simp only [byteOfBits, BitVec.toNat_ofNat]
    exact Nat.mod_eq_of_lt hl
  rw [this, ← h, bitsMsb_natOfBits]

theorem pushBit_acc_length (w : BitWriter) (h : w.acc.length ≤ 7) (b : Bool) : (w.pushBit b).acc.length ≤ 7 := by
  unfold BitWriter.pushBit
  split
  · simp only [List.length_append, List.length_singleton]; omega
  · simp

/-- One pushed bit joins the end of the stream (45 R120, R121). -/
theorem pushBit_stream (w : BitWriter) (h : w.acc.length ≤ 7) (b : Bool) :
    (w.pushBit b).stream = w.stream ++ [b] := by
  unfold BitWriter.pushBit
  split
  · simp [BitWriter.stream]
  · have h8 : (w.acc ++ [b]).length = 8 := by simp only [List.length_append, List.length_singleton]; omega
    simp [BitWriter.stream, bitsMsb_byteOfBits _ h8]

theorem foldl_pushBit_acc_length (bits : List Bool) (w : BitWriter) (h : w.acc.length ≤ 7) :
    (bits.foldl BitWriter.pushBit w).acc.length ≤ 7 := by
  induction bits generalizing w with
  | nil => exact h
  | cons b bs ih => exact ih _ (pushBit_acc_length w h b)

theorem foldl_pushBit_stream (bits : List Bool) (w : BitWriter) (h : w.acc.length ≤ 7) :
    (bits.foldl BitWriter.pushBit w).stream = w.stream ++ bits := by
  induction bits generalizing w with
  | nil => simp
  | cons b bs ih => simp [ih _ (pushBit_acc_length w h b), pushBit_stream w h b]

theorem pushBits_acc_length (w : BitWriter) (h : w.acc.length ≤ 7) (v n : Nat) : (w.pushBits v n).acc.length ≤ 7 :=
  foldl_pushBit_acc_length _ w h

theorem pushBits_stream (w : BitWriter) (h : w.acc.length ≤ 7) (v n : Nat) :
    (w.pushBits v n).stream = w.stream ++ bitsMsb v n :=
  foldl_pushBit_stream _ w h

theorem packMatch_acc_length (code : List Nat) (depth : List Byte) (w : BitWriter) (h : w.acc.length ≤ 7) (m : Match) :
    (packMatch code depth w m).acc.length ≤ 7 := by
  cases m with
  | lit v => exact pushBits_acc_length w h _ _
  | ref v f => exact pushBits_acc_length _ (pushBits_acc_length w h _ _) _ _

theorem foldl_packMatch_acc_length (code : List Nat) (depth : List Byte) (s : List Match) (w : BitWriter)
    (h : w.acc.length ≤ 7) : (s.foldl (packMatch code depth) w).acc.length ≤ 7 := by
  induction s generalizing w with
  | nil => exact h
  | cons m s ih => exact ih _ (packMatch_acc_length code depth w h m)

theorem packAll_acc_length (code : List Nat) (depth : List Byte) (s : List Match) :
    (packAll code depth s).acc.length ≤ 7 :=
  foldl_packMatch_acc_length code depth s _ (by simp [BitWriter.empty])

/-- The symbol of a literal is its byte (30 R57). -/
@[simp] theorem Match.sym_lit_toNat (v : Byte) : (Match.lit v).sym.toNat = v.toNat := by
  simp only [Match.sym, BitVec.toNat_append]
  simp

/-- The symbol of a backreference is `256 + V` (30 R58). -/
@[simp] theorem Match.sym_ref_toNat (v : Byte) (f : Off12) : (Match.ref v f).sym.toNat = 256 + v.toNat := by
  have h : (Match.ref v f).sym.toNat = 1 <<< 8 ||| v.toNat := by
    simp only [Match.sym, BitVec.toNat_append]
    rfl
  rw [h, ← Nat.shiftLeft_add_eq_or_of_lt (by simpa using v.isLt)]
  norm_num [Nat.shiftLeft_eq]

@[simp] theorem tag_length : tag.length = 16 := rfl

@[simp] theorem u32le_length (v : Word) : (u32le v).length = 4 := rfl

@[simp] theorem header_length (k : Word) (size symCount : Nat) : (header k size symCount).length = 32 := by
  simp [header]

/-- A frequency is a count of records (43 R101). -/
theorem freqAt_count (s : List Match) (i : Nat) (h : i < alphabet) :
    freqAt (count s) i = s.countP fun m => m.sym.toNat == i := by
  simp [freqAt, count, h]

/-- The used symbols of a symbol sequence are those that occur in it (43 R101, R102). -/
theorem usedSymbols_count (s : List Match) :
    usedSymbols (count s) = (List.range alphabet).filter fun i => 0 < s.countP fun m => m.sym.toNat == i := by
  unfold usedSymbols
  apply List.filter_congr
  intro i hi
  rw [freqAt_count s i (List.mem_range.mp hi)]

/-- A depth of the table is the clamped raw depth, or 0 (43 R108, R109). -/
theorem depthAt_depthTable (raw : List (Sym × Nat)) (s : Nat) (h : s < alphabet) :
    depthAt (depthTable raw) s =
      ((raw.find? fun sd => sd.1.toNat == s).elim 0#8 fun sd => clampDepth sd.2).toNat := by
  unfold depthAt depthTable
  rw [List.getD_eq_getElem?_getD, List.getElem?_map, List.getElem?_range h]
  cases hf : raw.find? fun sd => sd.1.toNat == s <;> simp [hf]

/-- The symbols with a code are those the depth table gives a depth (43 R108, 44 R114). -/
theorem codedSymbols_depthTable (raw : List (Sym × Nat)) :
    codedSymbols (depthTable raw) = (List.range alphabet).filter fun s =>
      0 < ((raw.find? fun sd => sd.1.toNat == s).elim 0#8 fun sd => clampDepth sd.2).toNat := by
  unfold codedSymbols
  apply List.filter_congr
  intro s hs
  rw [depthAt_depthTable raw s (List.mem_range.mp hs)]

/-- The container is 544 bytes and then the bitstream (30 R64, R65). -/
theorem container_length (p : List Byte) (k : Word) :
    (encodePayload p k).container.length = 544 + (runUnits p k).writer.finish.length := by
  have h : (runUnits p k).depth.length = alphabet := by simp only [runUnits, buildDepths_depth_length]
  unfold encodePayload
  simp only [assemble, List.length_append, header_length, ksEncrypt_length, ksSeq_length, h,
    alphabet, ksSteps, Nat.min_self, Nat.reduceAdd]

end Sys2Proof.Machine
end

