-- ==== Sys2Proof/Tests/Slice0.lean ====
section
/-! SUPPORT. The model's own tests. Expected values are those of spec/95_test_vectors.md (the section is named at each test) or are
worked out by hand from the rule named. -/

namespace Sys2Proof.Machine.Tests

/-! The terms that no word decodes to are refused by `Instr.wf`. -/

/-- The build of the spec's vectors (95 L2.7). -/
def build : Params := ⟨4096#32, 4096#32⟩

theorem test_wf_refuses_misaligned_row_for_reserved_region :
    (Instr.accErrMisaligned .read .reserved 1#30).wf build = false := by decide

theorem test_wf_refuses_misaligned_row_for_aligned_offset :
    (Instr.accErrMisaligned .read .csr 4#30).wf build = false := by decide

theorem test_wf_refuses_unallocated_row_for_misaligned_offset :
    (Instr.accErrUnallocated .read 0x25#30).wf build = false := by decide

theorem test_wf_refuses_unallocated_row_for_last_csr :
    (Instr.accErrUnallocated .read 0x20#30).wf build = false := by decide

theorem test_wf_refuses_out_of_range_row_outside_buffers :
    (Instr.accErrOutOfRange .read .csr 0x1000#30).wf build = false := by decide

theorem test_wf_refuses_out_of_range_row_for_misaligned_offset :
    (Instr.accErrOutOfRange .read .ibuf 0x1001#30).wf build = false := by decide

theorem test_wf_refuses_out_of_range_row_for_last_word :
    (Instr.accErrOutOfRange .read .ibuf 0xFFC#30).wf build = false := by decide

theorem test_wf_refuses_soft_reset_without_its_bit : (Instr.cmdSoftReset 5#32).wf build = false := by decide

theorem test_wf_refuses_start_with_soft_reset : (Instr.cmdStart 3#32).wf build = false := by decide

theorem test_wf_refuses_start_without_its_bit : (Instr.cmdStart 4#32).wf build = false := by decide

theorem test_wf_refuses_ctrl_write_with_start : (Instr.wrCtrl 1#32).wf build = false := by decide

theorem test_wf_refuses_ctrl_write_with_soft_reset : (Instr.wrCtrl 2#32).wf build = false := by decide

theorem test_wf_refuses_misaligned_buffer_access :
    (Instr.rdIbuf 2#30).wf build = false ∧ (Instr.wrIbuf 2#30 0#32).wf build = false ∧
      (Instr.rdObuf 2#30).wf build = false ∧ (Instr.wrObuf 2#30 0#32).wf build = false := by decide

theorem test_wf_refuses_buffer_access_beyond_size :
    (Instr.rdIbuf 0x1000#30).wf build = false ∧ (Instr.wrIbuf 0x1000#30 0#32).wf build = false ∧
      (Instr.rdObuf 0x1000#30).wf build = false ∧ (Instr.wrObuf 0x1000#30 0#32).wf build = false := by decide

theorem test_wf_refuses_ref_of_symbol_256 : (Instr.ref 0#8 5#12).wf build = false := by decide

/-! Decoding: a word of every row, written out from 30 R66 to R69 and R56 to R60 (and 95 L2.7, L2.8). -/

theorem test_decode_reserved_region :
    decode build (.haw 0x0C000000000000000#65) = .accErrReservedRegion .read 0#30 := by decide

theorem test_decode_reserved_region_before_misaligned :
    decode build (.haw 0x1C000000200000007#65) = .accErrReservedRegion (.write 7#32) 2#30 := by decide

theorem test_decode_misaligned :
    decode build (.haw 0x00000000200000000#65) = .accErrMisaligned .read .csr 2#30 := by decide

theorem test_decode_misaligned_before_read_only :
    decode build (.haw 0x10000000300000000#65) = .accErrMisaligned (.write 0#32) .csr 3#30 := by decide

theorem test_decode_unallocated : decode build (.haw 0x00000002400000000#65) = .accErrUnallocated .read 0x24#30 := by decide

theorem test_decode_out_of_range :
    decode build (.haw 0x04000100000000000#65) = .accErrOutOfRange .read .ibuf 0x1000#30 ∧
      decode build (.haw 0x18000100000000009#65) = .accErrOutOfRange (.write 9#32) .obuf 0x1000#30 := by decide

theorem test_decode_rd_id : decode build (.haw 0x00000000000000000#65) = .rdId := by decide

theorem test_decode_rd_ctrl : decode build (.haw 0x00000000400000000#65) = .rdCtrl := by decide

theorem test_decode_rd_status_ignores_data : decode build (.haw 0x000000008FFFFFFFF#65) = .rdStatus := by decide

theorem test_decode_rd_key : decode build (.haw 0x00000000C00000000#65) = .rdKey := by decide

theorem test_decode_rd_src_len : decode build (.haw 0x00000001000000000#65) = .rdSrcLen := by decide

theorem test_decode_rd_sym_count : decode build (.haw 0x00000001400000000#65) = .rdSymCount := by decide

theorem test_decode_rd_out_len : decode build (.haw 0x00000001800000000#65) = .rdOutLen := by decide

theorem test_decode_rd_ibuf_size : decode build (.haw 0x00000001C00000000#65) = .rdIbufSize := by decide

theorem test_decode_rd_obuf_size : decode build (.haw 0x00000002000000000#65) = .rdObufSize := by decide

theorem test_decode_wr_ro_id : decode build (.haw 0x10000000000000005#65) = .wrRoId 5#32 := by decide

theorem test_decode_wr_ro_sym_count : decode build (.haw 0x10000001400000005#65) = .wrRoSymCount 5#32 := by decide

theorem test_decode_wr_ro_out_len : decode build (.haw 0x10000001800000005#65) = .wrRoOutLen 5#32 := by decide

theorem test_decode_wr_ro_ibuf_size : decode build (.haw 0x10000001C00000005#65) = .wrRoIbufSize 5#32 := by decide

theorem test_decode_wr_ro_obuf_size : decode build (.haw 0x10000002000000005#65) = .wrRoObufSize 5#32 := by decide

theorem test_decode_soft_reset_before_start : decode build (.haw 0x10000000400000007#65) = .cmdSoftReset 7#32 := by decide

theorem test_decode_start : decode build (.haw 0x10000000400000005#65) = .cmdStart 5#32 := by decide

theorem test_decode_wr_ctrl : decode build (.haw 0x10000000400000004#65) = .wrCtrl 4#32 := by decide

theorem test_decode_wr_status : decode build (.haw 0x1000000080000000E#65) = .wrStatus 0xE#32 := by decide

theorem test_decode_wr_key : decode build (.haw 0x10000000C12345678#65) = .wrKey 0x12345678#32 := by decide

theorem test_decode_wr_src_len : decode build (.haw 0x1000000100000000A#65) = .wrSrcLen 10#32 := by decide

theorem test_decode_rd_ibuf_last_word : decode build (.haw 0x040000FFC00000000#65) = .rdIbuf 0xFFC#30 := by decide

theorem test_decode_wr_ibuf : decode build (.haw 0x14000000400434241#65) = .wrIbuf 4#30 0x00434241#32 := by decide

theorem test_decode_rd_obuf : decode build (.haw 0x08000022000000000#65) = .rdObuf 0x220#30 := by decide

theorem test_decode_wr_obuf : decode build (.haw 0x18000000000000001#65) = .wrObuf 0#30 1#32 := by decide

/-- A literal: `R = 0`, `V = 0x41`; bits 20:9 are not read. -/
theorem test_decode_lit : decode build (.record 0b111111111111001000001#21) = .lit 0x41#8 := by decide

/-- `REF 257, 2` and `REF 41, 259` of 45 R125's example: symbols 511 and 295, fields 0 and 257. -/
theorem test_decode_ref :
    decode build (.record 0b000000000000111111111#21) = .ref 0xFF#8 0#12 ∧
      decode build (.record 0b000100000001100100111#21) = .ref 39#8 257#12 := by decide

theorem test_decode_ref_of_length_two : decode build (.record 0b000000000001100000000#21) = .refL2 1#12 := by decide

/-- The rows' bits as numbers: a host access word of 9 bytes, a literal of 2, a backreference of 3. -/
theorem test_decode_table_words :
    decodeTableWord 72 0x10000000C00000007 = some (.wrKey 7#32) ∧ decodeTableWord 16 0x41 = some (.lit 0x41#8) ∧
      decodeTableWord 24 0x101 = some (.ref 1#8 0#12) ∧ decodeTableWord 16 0x101 = some (.ref 1#8 0#12) := by decide

/-! One step from a small state, against 95 L2.7 to L2.9 and the programs of 95 L3. -/

/-- The state that a step or a run answers. -/
def after (o : Host.Outcome State Fault Refusal) : Option State :=
  match o with
  | .next t => some t
  | .fault _ => none
  | .refused _ => none

/-- The reset state of the vectors' build with an access issued. -/
def access (w : BitVec 65) : State := { State.resetWith build with agenda := [.issue (.haw w)] }

/-- A run in progress, an access issued. -/
def runningWith (w : BitVec 65) : State := { access w with busy := true }

/-- What one step leaves in STATUS, and the response. -/
def statusAndResponse (s : State) : Option (Word × Response) := (after (step s)).map fun t => (t.statusWord, t.resp)

theorem test_rd_id : statusAndResponse (access 0x00000000000000000#65) = some (0#32, .okayData 0x44534331#32) := by decide

theorem test_rd_ctrl :
    statusAndResponse { access 0x00000000400000000#65 with irqEn := true } = some (0#32, .okayData 4#32) := by decide

/-- STATUS reads 0x10C after the AccessErrors of P4. -/
theorem test_rd_status :
    statusAndResponse { access 0x00000000800000000#65 with error := true, errCode := 1#4, accErr := true } =
      some (0x10C#32, .okayData 0x10C#32) := by decide

theorem test_rd_key : statusAndResponse { access 0x00000000C00000000#65 with key := 7#32 } =
    some (0#32, .okayData 7#32) := by decide

theorem test_rd_src_len : statusAndResponse { access 0x00000001000000000#65 with srcLen := 10#32 } =
    some (0#32, .okayData 10#32) := by decide

theorem test_rd_sym_count : statusAndResponse { access 0x00000001400000000#65 with symCount := 3#32 } =
    some (0#32, .okayData 3#32) := by decide

theorem test_rd_out_len : statusAndResponse { access 0x00000001800000000#65 with outLen := 0x222#32 } =
    some (0#32, .okayData 0x222#32) := by decide

theorem test_rd_ibuf_size : statusAndResponse (access 0x00000001C00000000#65) = some (0#32, .okayData 0x1000#32) := by
  decide

theorem test_rd_obuf_size :
    statusAndResponse { access 0x00000002000000000#65 with params := ⟨4096#32, 544#32⟩ } =
      some (0#32, .okayData 544#32) := by decide

theorem test_reserved_region : statusAndResponse (access 0x1C000000200000000#65) = some (8#32, .err 0#32) := by decide

theorem test_misaligned : statusAndResponse (access 0x00000000200000000#65) = some (8#32, .err 0#32) := by decide

theorem test_unallocated : statusAndResponse (access 0x03FFFFFFC00000000#65) = some (8#32, .err 0#32) := by decide

theorem test_out_of_range : statusAndResponse (access 0x08000100000000000#65) = some (8#32, .err 0#32) := by decide

theorem test_wr_ro_id : statusAndResponse (access 0x10000000000000005#65) = some (8#32, .err 0#32) := by decide

theorem test_wr_ro_sym_count : statusAndResponse (access 0x10000001400000005#65) = some (8#32, .err 0#32) := by decide

theorem test_wr_ro_out_len : statusAndResponse (access 0x10000001800000005#65) = some (8#32, .err 0#32) := by decide

theorem test_wr_ro_ibuf_size : statusAndResponse (access 0x10000001C00000005#65) = some (8#32, .err 0#32) := by decide

theorem test_wr_ro_obuf_size : statusAndResponse (access 0x10000002000000005#65) = some (8#32, .err 0#32) := by decide

theorem test_wr_obuf : statusAndResponse (access 0x18000000000000000#65) = some (8#32, .err 0#32) := by decide

theorem test_wr_ctrl_enables_irq_of_done :
    (after (step { access 0x10000000400000004#65 with done := true })).map (fun t => (t.ctrlWord, t.irq)) =
      some (4#32, true) := by decide

theorem test_start : statusAndResponse (access 0x10000000400000001#65) = some (1#32, .okay) := by decide

/-- A START during a run is refused and does not write IRQ_EN (40 R78). -/
theorem test_start_while_busy :
    (after (step (runningWith 0x10000000400000005#65))).map (fun t => (t.statusWord, t.ctrlWord, t.resp)) =
      some (9#32, 0#32, .err 0#32) := by decide

theorem test_soft_reset_does_not_start :
    (after (step { runningWith 0x10000000400000007#65 with key := 5#32, accErr := true })).map
      (fun t => (t.statusWord, t.ctrlWord, t.key)) = some (0#32, 0#32, 0#32) := by decide

theorem test_wr_status_clears_done_only :
    statusAndResponse { access 0x10000000800000002#65 with done := true, accErr := true } = some (8#32, .okay) := by decide

/-- CLAMP stays when DONE is cleared (40 R80's example); ERRCODE goes with ERROR (95 L2.7). -/
theorem test_wr_status_clamp_and_errcode :
    statusAndResponse { access 0x10000000800000002#65 with done := true, clamp := true } = some (0x10#32, .okay) ∧
      statusAndResponse { access 0x10000000800000004#65 with error := true, errCode := 1#4 } = some (0#32, .okay) := by
  decide

theorem test_wr_key : (after (step (access 0x10000000C12345678#65))).map (·.key) = some 0x12345678#32 := by decide

theorem test_wr_key_while_busy :
    (after (step (runningWith 0x10000000C00000007#65))).map (fun t => (t.key, t.statusWord)) = some (0#32, 9#32) := by
  decide

theorem test_wr_src_len_beyond_ibuf :
    (after (step (access 0x10000001000001001#65))).map (fun t => (t.srcLen, t.resp)) = some (0x1001#32, .okay) := by decide

theorem test_wr_ibuf :
    (after (step (access 0x14000000400434241#65))).map (·.ibuf) =
      some [(4, 0x41#8), (5, 0x42#8), (6, 0x43#8), (7, 0x00#8)] := by decide

theorem test_rd_ibuf :
    statusAndResponse { access 0x04000000400000000#65 with
      ibuf := [(4, 0x41#8), (5, 0x42#8), (6, 0x43#8), (7, 0x00#8)] } = some (0#32, .okayData 0x00434241#32) := by decide

theorem test_rd_obuf :
    statusAndResponse { access 0x08000000000000000#65 with
      done := true, outLen := 4#32, obuf := [(0, 0x44#8), (1, 0x53#8), (2, 0x43#8), (3, 0x20#8)] } =
      some (2#32, .okayData 0x20435344#32) := by decide

/-- Working state as after `S = [LIT 0x41, LIT 0x41, REF 257, 2, REF 41, 259]` (45 R125's example): the codes are
`0x41: 0`, `511: 11`, `295: 10`. -/
def codedWork : Work :=
  { Work.initial with
    depth := ((List.replicate 512 0#8).set 0x41 1#8 |>.set 295 2#8).set 511 2#8
    code := ((List.replicate 512 0).set 295 2).set 511 3 }

/-- A symbol record presented to the bit packer, with that code table. -/
def presented (w : BitVec 21) : State :=
  { State.resetWith build with agenda := [.issue (.record w)], work := codedWork }

/-- The bit writer one step leaves. -/
def writerAfter (s : State) : Option BitWriter := (after (step s)).map (·.work.writer)

theorem test_lit : writerAfter (presented 0b000000000000001000001#21) = some ⟨[false], []⟩ := by decide +kernel

/-- `REF 257, 2`: the code `11`, then twelve 0 bits. -/
theorem test_ref :
    writerAfter (presented 0b000000000000111111111#21) =
      some ⟨[false, false, false, false, false, false], [0xC0#8]⟩ := by decide +kernel

/-- A record of symbol 256, which has no code here: its offset field alone. -/
theorem test_ref_of_length_two :
    writerAfter (presented 0b100000000001100000000#21) = some ⟨[false, false, false, true], [0x80#8]⟩ := by decide +kernel

/-! The units, against 95 L2 (fixed small inputs). -/

/-- 95 L2.1.1: a step that multiplies both halves, and the wrap corner. -/
theorem test_keystream_steps :
    ksAdvance 0x12345678#32 magic = (0x955E76D9#32, 0x5E#8) ∧ ksAdvance 0xD6DAEBE3#32 magic = (0#32, 0xFF#8) := by
  decide

/-- 95 L1.2: ten 'A' bytes parse to two literals and `REF 8, 2`. -/
theorem test_parse_ten_equal_bytes :
    findMatches (List.replicate 10 0x41#8) = [.lit 0x41#8, .lit 0x41#8, .ref 6#8 0#12] := by decide +kernel

/-- 43 R106's example: five symbols with frequencies 1, 1, 1, 1, 2. -/
theorem test_tree_of_five_symbols :
    (buildFromFreq [1, 1, 1, 1, 2]).depth.take 5 = [3#8, 3#8, 2#8, 2#8, 2#8] := by decide +kernel

/-- The canonical codes of those depths (44 R115): `00, 01, 10` and then `110, 111`. -/
theorem test_codes_of_five_symbols :
    assigned [3#8, 3#8, 2#8, 2#8, 2#8] = [(2, 0), (3, 1), (4, 2), (0, 6), (1, 7)] := by decide +kernel

/-! The completion step. -/

/-- P1's payload. -/
def tenBytes : List Byte := List.replicate 10 0x41#8

/-- P1's symbol sequence (95 L1.2). -/
def tenRecords : List Match := [.lit 0x41#8, .lit 0x41#8, .ref 6#8 0#12]

theorem tenRecords_filter :
    ((List.range alphabet).filter fun i => 0 < tenRecords.countP fun m => m.sym.toNat == i) = [65, 262] := by
  decide +kernel

/-- Two leaves: 43 R102's example. -/
theorem test_leaves_of_two_symbols : leaves (count tenRecords) = [.leaf 2 0 65#9, .leaf 1 1 262#9] := by
  unfold leaves
  rw [(usedSymbols_count tenRecords).trans tenRecords_filter]
  decide +kernel

theorem rawDepthsOf_of_merge {freq : List Nat} {q : List Node} {f i : Nat} {l r : Node} (hq : leaves freq = q)
    (hm : merge q = [.inner f i l r]) : rawDepthsOf freq = rawDepths 0 (.inner f i l r) := by
  subst hq
  unfold rawDepthsOf
  rw [hm]

/-- The rarer symbol is taken first (43 R103, R104). -/
theorem test_merge_of_two_symbols :
    merge [.leaf 2 0 65#9, .leaf 1 1 262#9] = [.inner 3 2 (.leaf 1 1 262#9) (.leaf 2 0 65#9)] := by decide +kernel

theorem tenRecords_rawDepths : rawDepthsOf (count tenRecords) = [(262#9, 1), (65#9, 1)] :=
  (rawDepthsOf_of_merge test_leaves_of_two_symbols test_merge_of_two_symbols).trans rfl

theorem tenRecords_filter_depths :
    ((List.range alphabet).filter fun s =>
      0 < (([(262#9, 1), (65#9, 1)].find? fun sd : Sym × Nat => sd.1.toNat == s).elim 0#8 fun sd =>
        clampDepth sd.2).toNat) = [65, 262] := by decide +kernel

theorem tenRecords_assigned : assigned (depthTable [(262#9, 1), (65#9, 1)]) = [(65, 0), (262, 1)] := by
  unfold assigned ccSort
  rw [(codedSymbols_depthTable _).trans tenRecords_filter_depths]
  decide +kernel

theorem tenRecords_packed :
    (packAll (codeTable [(65, 0), (262, 1)]) (depthTable [(262#9, 1), (65#9, 1)]) tenRecords).finish =
      [0x20#8, 0x00#8] := by decide +kernel

/-- P1: the bitstream of ten 'A' bytes is `20 00`. -/
theorem test_bitstream_of_ten_equal_bytes : (runUnits tenBytes 0x12345678#32).writer.finish = [0x20#8, 0x00#8] := by
  have hd : (buildDepths tenRecords).depth = depthTable [(262#9, 1), (65#9, 1)] := by
    unfold buildDepths buildFromFreq
    rw [tenRecords_rawDepths]
  unfold runUnits
  rw [show findMatches tenBytes = tenRecords from test_parse_ten_equal_bytes]
  dsimp only
  rw [hd, assignCodes, tenRecords_assigned]
  exact tenRecords_packed

/-- P1: the container has 546 bytes. -/
theorem test_container_length_of_ten_equal_bytes : (encodePayload tenBytes 0x12345678#32).container.length = 546 := by
  rw [container_length, test_bitstream_of_ten_equal_bytes]
  rfl

/-- P1 at its completion step, with a given size of OBUF. -/
def p1 (obufSize : Word) : State :=
  { State.resetWith ⟨4096#32, obufSize⟩ with
    agenda := [.engine], busy := true, irqEn := true, key := 0x12345678#32, srcLen := 10#32
    ibuf := cellsFrom 0 tenBytes }

theorem p1_payload (n : Word) : (p1 n).advance.payload = tenBytes := by
  have h : (p1 n).advance.payload = (p1 0#32).advance.payload := by unfold State.payload; rfl
  rw [h]
  decide +kernel

theorem p1_payload_before (n : Word) : (p1 n).payload = tenBytes := by
  rw [← p1_payload n]
  unfold State.payload
  rfl

/-- P1 after its completion step: BUSY 0, DONE 1, OUT_LEN 546, irq 1. -/
theorem test_complete_ten_equal_bytes :
    (after (step (p1 4096#32))).map (fun t => (t.busy, t.done, t.outLen, t.irq)) =
      some (false, true, 546#32, true) := by
  have h := test_container_length_of_ten_equal_bytes
  have hk : (p1 4096#32).advance.key = 0x12345678#32 := rfl
  rw [step_completes rfl rfl, State.complete_fits _ (by decide +kernel) (by rw [p1_payload, hk, h]; decide +kernel), p1_payload, hk]
  simp [after, State.finishRun, h, State.irq, State.advance, p1]

theorem p1_overflows : ∃ (E : Encoded) (w : Work), E.container.length = 546 ∧
    (p1 544#32).advance.complete =
      { (p1 544#32).advance with work := w }.runError (.obufOverflow E.symCount E.container.length) := by
  have h := test_container_length_of_ten_equal_bytes
  have e := State.complete_overflows (p1 544#32).advance
  have hk : (p1 544#32).advance.key = 0x12345678#32 := rfl
  rw [p1_payload, hk] at e
  exact ⟨_, _, h, e (by decide) (by rw [h]; decide)⟩

/-- P1 with an OBUF of 544 bytes: ERROR with code 2, and OUT_LEN the size needed (60 R141). -/
theorem test_overflow_ten_equal_bytes :
    (after (step (p1 544#32))).map (fun t => (t.busy, t.error, t.errCode, t.outLen, t.irq)) =
      some (false, true, 2#4, 546#32, true) := by
  obtain ⟨E, w, h, e⟩ := p1_overflows
  rw [step_completes rfl rfl, e]
  simp [after, State.runError, h, State.irq, State.advance, p1, RunError.code, RunError.outLen]

/-- 95 L2.8: a payload longer than IBUF ends in LEN_RANGE, whatever OBUF's size. -/
theorem test_complete_len_range :
    (after (step { p1 544#32 with srcLen := 0x1001#32 })).map
      (fun t => (t.statusWord, t.symCount, t.outLen)) = some (0x104#32, 0#32, 0#32) := by decide +kernel

/-! Witnesses: for each statement of Certificates/Slice0/Obligations.lean that has hypotheses, concrete values that meet them
together; one for each clause, at the edge of its range where it has one. -/

theorem witness_DecodeOfEncodeIsInstruction :
    (Instr.rdIbuf 0xFFC#30).wf build = true ∧ (Instr.accErrOutOfRange .read .obuf 0x1000#30).wf build = true ∧
      (Instr.accErrUnallocated .read 0x24#30).wf build = true ∧ (Instr.cmdStart 5#32).wf build = true ∧
      (Instr.ref 1#8 0xFFF#12).wf build = true := by decide

theorem witness_EncodeOfDecodeKeepsBits :
    (0x10000000C12345678#65).getLsbD 64 = true ∧ (0x000000008FFFFFFFF#65).getLsbD 64 = false ∧
      (0b111111111111111111111#21).getLsbD 8 = true ∧ (0b111111111111011111111#21).getLsbD 8 = false := by decide

theorem witness_IssuedWordRunsItsInstruction :
    (access 0x10000000400000001#65).agenda = .issue (.haw 0x10000000400000001#65) :: [] := rfl

/-- A run in progress with nothing on the agenda. -/
def running : State := { State.resetWith build with busy := true }

theorem witness_IdleBlockWaits :
    (State.resetWith build).busy = false ∧ (State.resetWith build).agenda = [] ∧
      ({ State.resetWith build with agenda := [.engine, .hardReset] } : State).agenda = .engine :: [.hardReset] := by decide

theorem witness_HardwareResetClearsBlock :
    ({ running with agenda := [.hardReset, .engine] } : State).agenda = .hardReset :: [.engine] := rfl

/-- The lowest illegal address of each clause: a reserved one, an offset of 1, the word after the last CSR, and the first
word past each buffer. -/
theorem witness_IllegalAddressesRaiseAccessError :
    (access 0x0C000000000000000#65).agenda = .issue (.haw 0x0C000000000000000#65) :: [] ∧
      (0x0C000000000000000#65).extractLsb' 62 2 = 0b11#2 ∧
      (0x00000000100000000#65).extractLsb' 32 2 ≠ 0b00#2 ∧
      ((0x00000002400000000#65).extractLsb' 62 2 = 0b00#2 ∧ 0x20 < ((0x00000002400000000#65).extractLsb' 32 30).toNat) ∧
      ((0x04000100000000000#65).extractLsb' 62 2 = 0b01#2 ∧
        build.ibufSize.toNat ≤ ((0x04000100000000000#65).extractLsb' 32 30).toNat) ∧
      ((0x08000100000000000#65).extractLsb' 62 2 = 0b10#2 ∧
        build.obufSize.toNat ≤ ((0x08000100000000000#65).extractLsb' 32 30).toNat) := by decide

theorem witness_BusyGuardsTheRunInputs :
    running.busy = true ∧ isHostRead .rdStatus = true ∧
      (∃ d, Instr.wrStatus 8#32 = .wrCtrl d ∨ Instr.wrStatus 8#32 = .cmdSoftReset d ∨ Instr.wrStatus 8#32 = .wrStatus d) ∧
      exec .rdId running = .next (running.respondData idValue) ∧ (running.respondData idValue).busy = true :=
  ⟨rfl, rfl, ⟨8#32, .inr (.inr rfl)⟩, rfl, rfl⟩

theorem witness_StartIsAcceptedWhenIdle : (State.resetWith build).busy = false ∧ running.busy = true := by decide

theorem witness_KeyAndSrcLenAreWritable : (State.resetWith build).busy = false ∧ running.busy = true := by decide

/-- An idle and a running state with four bytes in the last word of IBUF. -/
def lastWord : State :=
  { State.resetWith build with ibuf := [(0xFFC, 1#8), (0xFFD, 2#8), (0xFFE, 3#8), (0xFFF, 4#8)] }

theorem witness_WrIbufStoresItsFourBytes :
    lastWord.ibuf.wf lastWord.params.ibufSize.toNat = true ∧ lastWord.busy = false ∧
      ({ lastWord with busy := true } : State).busy = true := by decide

theorem witness_RdIbufReturnsWrittenBytes :
    (3 : Nat) < 4 ∧ lastWord.ibuf.byteAt ((0xFFC#30).toNat + 3) = some 4#8 := by decide

/-- A container's first word, as far as a read of it goes. -/
def fourBytes : State :=
  { State.resetWith build with
    done := true, outLen := 4#32, obuf := [(0, 0x44#8), (1, 0x53#8), (2, 0x43#8), (3, 0x20#8)] }

theorem witness_RdObufReturnsContainerBytes :
    (3 : Nat) < 4 ∧ fourBytes.done = true ∧ (0#30).toNat + 3 < fourBytes.outLen.toNat ∧
      fourBytes.obuf.byteAt ((0#30).toNat + 3) = some 0x20#8 := by decide

theorem witness_IbufReadsBackWhatWasWritten :
    lastWord.busy = false ∧ lastWord.ibuf.wf lastWord.params.ibufSize.toNat = true := by decide

theorem witness_ReadsHaveNoSideEffects : isHostRead (.rdObuf 0#30) = true := rfl

theorem witness_RecordsAppendTheirToken :
    ({ State.resetWith build with
      work := { codedWork with writer := ⟨List.replicate 7 true, [0#8]⟩ } } : State).work.writer.acc.length ≤ 7 := by decide

/-- The invariant holds at reset of the vectors' build, and a START is a step from there. -/
theorem witness_EveryStepKeepsInvariant :
    (access 0x10000000400000001#65).Inv ∧
      step (access 0x10000000400000001#65) =
        .next { State.resetWith build with busy := true, resp := .okay } := by
  refine ⟨?_, rfl⟩
  constructor <;> decide +kernel

theorem witness_InvariantHoldsAtReset :
    (Params.mk 4#32 544#32).wf = true ∧ (Params.mk 0x40000000#32 0x40000000#32).wf = true := by decide

theorem witness_BusyRisesOnlyByStart :
    step (access 0x10000000400000001#65) = .next { State.resetWith build with busy := true, resp := .okay } ∧
      (access 0x10000000400000001#65).busy = false := ⟨rfl, rfl⟩

/-- ACCERR is set, and the access is an acknowledgement of it. -/
def accErrAcknowledged : State := { access 0x10000000800000008#65 with accErr := true }

theorem witness_AccessErrorBitIsSticky :
    step accErrAcknowledged = .next { State.resetWith build with resp := .okay } ∧ accErrAcknowledged.accErr = true ∧
      (State.resetWith build).accErr = false := ⟨rfl, rfl, rfl⟩

theorem witness_IbufChangesOnlyByItsWrites :
    (access 0x14000000400434241#65).ibuf.wf build.ibufSize.toNat = true ∧
      step (access 0x14000000400434241#65) =
        .next { State.resetWith build with
          ibuf := [(4, 0x41#8), (5, 0x42#8), (6, 0x43#8), (7, 0x00#8)], resp := .okay } ∧
      Memory.byteAt [(4, 0x41#8), (5, 0x42#8), (6, 0x43#8), (7, 0x00#8)] 7 ≠
        (access 0x14000000400434241#65).ibuf.byteAt 7 := ⟨by decide, rfl, by decide⟩

theorem witness_ContainerStaysWhileDone :
    step { fourBytes with agenda := [.issue (.haw 0x10000000800000004#65)] } = .next { fourBytes with resp := .okay } ∧
      fourBytes.busy = false ∧ fourBytes.done = true := ⟨rfl, rfl, rfl⟩

theorem witness_RunInputsAreLocked :
    step (runningWith 0x10000000C00000007#65) =
        .next { State.resetWith build with busy := true, accErr := true, resp := .err 0#32 } ∧
      (runningWith 0x10000000C00000007#65).busy = true := ⟨rfl, rfl⟩

theorem witness_SoftResetOrderDoesNotMatter :
    (p1 4096#32).busy = true ∧ decode (p1 4096#32).params (.haw 0x10000000400000007#65) = .cmdSoftReset 7#32 :=
  ⟨rfl, by decide⟩

theorem witness_WorkingStateIsUnobservable :
    Sys2Proof.core.run 1 (access 0x10000000400000001#65) =
      .next ({ State.resetWith build with busy := true, resp := .okay } : State) := rfl

theorem witness_CompletionDeliversContainer :
    (p1 4096#32).agenda = .engine :: [] ∧ (p1 4096#32).busy = true ∧
      (p1 4096#32).srcLen.toNat ≤ (p1 4096#32).params.ibufSize.toNat ∧
      (encodePayload (p1 4096#32).payload (p1 4096#32).key).container.length ≤ (p1 4096#32).params.obufSize.toNat := by
  have hk : (p1 4096#32).key = 0x12345678#32 := rfl
  refine ⟨rfl, rfl, by decide, ?_⟩
  rw [p1_payload_before, hk, test_container_length_of_ten_equal_bytes]
  decide

/-- The shortest payload that is too long. -/
theorem witness_LongPayloadEndsInLenRange :
    ({ p1 4096#32 with srcLen := 4097#32 } : State).agenda = .engine :: [] ∧
      ({ p1 4096#32 with srcLen := 4097#32 } : State).busy = true ∧
      ({ p1 4096#32 with srcLen := 4097#32 } : State).params.ibufSize.toNat <
        ({ p1 4096#32 with srcLen := 4097#32 } : State).srcLen.toNat := by decide

theorem witness_LongContainerEndsInOverflow :
    (p1 544#32).agenda = .engine :: [] ∧ (p1 544#32).busy = true ∧
      (p1 544#32).srcLen.toNat ≤ (p1 544#32).params.ibufSize.toNat ∧
      (p1 544#32).params.obufSize.toNat < (encodePayload (p1 544#32).payload (p1 544#32).key).container.length := by
  have hk : (p1 544#32).key = 0x12345678#32 := rfl
  refine ⟨rfl, rfl, by decide, ?_⟩
  rw [p1_payload_before, hk, test_container_length_of_ten_equal_bytes]
  decide

theorem witness_CompletionRaisesInterrupt :
    (p1 4096#32).agenda = .engine :: [] ∧ (p1 4096#32).busy = true ∧ (p1 4096#32).irqEn = true := by decide

theorem witness_RestartRepeatsTheRun :
    (p1 4096#32).busy = true ∧ (p1 4096#32).srcLen.toNat ≤ (p1 4096#32).params.ibufSize.toNat ∧
      (encodePayload (p1 4096#32).payload (p1 4096#32).key).container.length ≤ (p1 4096#32).params.obufSize.toNat ∧
      decode (p1 4096#32).params (.haw 0x10000000400000001#65) = .cmdStart 1#32 := by
  refine ⟨rfl, by decide, witness_CompletionDeliversContainer.2.2.2, by decide⟩

/-- Two states that differ in IBUF from byte 10 on. -/
theorem witness_BytesBeyondPayloadDoNotMatter :
    (p1 4096#32).srcLen = ({ p1 4096#32 with ibuf := (p1 4096#32).ibuf.setByte 10 7#8 } : State).srcLen ∧
      (p1 4096#32).key = ({ p1 4096#32 with ibuf := (p1 4096#32).ibuf.setByte 10 7#8 } : State).key ∧
      (p1 4096#32).resets = ({ p1 4096#32 with ibuf := (p1 4096#32).ibuf.setByte 10 7#8 } : State).resets ∧
      ∀ i, i < (p1 4096#32).srcLen.toNat →
        (p1 4096#32).ibuf.byteAt i = ({ p1 4096#32 with ibuf := (p1 4096#32).ibuf.setByte 10 7#8 } : State).ibuf.byteAt i :=
  ⟨rfl, rfl, rfl, by decide +kernel⟩

theorem witness_KeystreamStepIsWrappingDatapath : (511 : Nat) < 512 := by decide

theorem witness_KeystreamRecoversDepths : (List.replicate 512 255#8).length = 512 := List.length_replicate

/-- `abcabd`: two bytes equal to those at offset 3, then one that differs. -/
def abcabd : List Byte := [0x61#8, 0x62#8, 0x63#8, 0x61#8, 0x62#8, 0x64#8]

theorem witness_MatchLengthIsLongestRun :
    2 ≤ 3 ∧ 3 ≤ 3 ∧ 3 < abcabd.length ∧ 1 < matchLen abcabd 3 3 ∧
      matchLen abcabd 3 3 < min 257 (abcabd.length - 3) := by decide +kernel

theorem witness_BestIsLargestOffsetOfLongestMatch :
    (2 ≤ 2 ∧ 2 ≤ min 2 4097) ∧ 3 ≤ (best tenBytes 2).1 ∧ (2 ≤ 2 ∧ matchLen tenBytes 2 2 = (best tenBytes 2).1) := by
  decide +kernel

theorem witness_ParseIsValid :
    findMatches tenBytes = [.lit 0x41#8] ++ .lit 0x41#8 :: [.ref 6#8 0#12] ∧
      findMatches tenBytes = [.lit 0x41#8, .lit 0x41#8] ++ .ref 6#8 0#12 :: [] ∧ 7 < (6#8).toNat + 2 :=
  ⟨test_parse_ten_equal_bytes, test_parse_ten_equal_bytes, by decide⟩

theorem witness_ShortPayloadsAreLiterals :
    1 < min tenBytes.length 2 ∧ [1#8, 2#8, 3#8, 4#8].length ≤ 4 ∧
      .lit 4#8 ∈ findMatches [1#8, 2#8, 3#8, 4#8] := by decide +kernel

theorem witness_LengthTwoIsNeverEmitted : .ref 6#8 0#12 ∈ findMatches tenBytes := by
  rw [show findMatches tenBytes = _ from test_parse_ten_equal_bytes]
  simp

/-- Three nodes of one frequency, told apart by their ids alone. -/
def tiedNodes : List Node := [.leaf 1 2 7#9, .leaf 1 0 5#9, .leaf 1 1 6#9]

theorem witness_MergeLeavesOneRoot :
    2 ≤ (leaves [1, 1]).length ∧ 2 ≤ tiedNodes.length ∧ (tiedNodes.map Node.id).Nodup ∧
      ∀ n, n ∈ tiedNodes → n.id < 3 := by decide +kernel

/-- Of three tied nodes the two of lowest id are taken, the lower first (43 R103). -/
theorem test_merge_breaks_ties_by_id :
    mergeOnce 3 tiedNodes = [.inner 2 3 (.leaf 1 0 5#9) (.leaf 1 1 6#9), .leaf 1 2 7#9] := by decide +kernel

theorem witness_RawDepthsAreBounded :
    2 ≤ (usedSymbols [1, 1]).length ∧ (1#9, 1) ∈ rawDepthsOf [1, 1] := by decide +kernel

theorem witness_UsedSymbolsHaveDepths : (0 : Nat) < 512 ∧ usedSymbols [5] = [0] := by decide +kernel

theorem witness_DepthSumIsOne :
    (buildFromFreq [1, 1, 2]).clamped = false ∧ 2 ≤ (usedSymbols [1, 1, 2]).length ∧
      (buildFromFreq [5]).clamped = false ∧ (usedSymbols [5]).length = 1 := by decide +kernel

theorem witness_ClampIsUnreachable :
    tenBytes.length ≤ 2 ^ 30 ∧ (65#9, 1) ∈ rawDepthsOf (count (findMatches tenBytes)) ∧ (p1 4096#32).params.wf = true ∧
      (p1 4096#32).busy = true ∧ (p1 4096#32).agenda = .engine :: [] ∧
      step (p1 4096#32) = .next (p1 4096#32).advance.complete :=
  ⟨by decide +kernel, by
    rw [show findMatches tenBytes = tenRecords from test_parse_ten_equal_bytes, tenRecords_rawDepths]
    decide, by decide, rfl, rfl, step_completes rfl rfl⟩

theorem witness_CodesAreBeginningFree :
    (buildFromFreq [1, 1, 2]).clamped = false ∧ 0 ∈ codedSymbols (buildFromFreq [1, 1, 2]).depth ∧
      2 ∈ codedSymbols (buildFromFreq [1, 1, 2]).depth := by decide +kernel

/-- The step from depth 1 to depth 2. -/
theorem witness_CodesAreCanonical :
    (1, 0) ∈ assigned [2#8, 1#8, 2#8] ∧ (assigned [2#8, 1#8, 2#8])[0]? = some (1, 0) ∧ (assigned [2#8, 1#8, 2#8])[0 + 1]? = some (0, 2) := by decide +kernel

theorem witness_ContainerHasItsLayout : tenBytes.length ≤ 2 ^ 30 ∧ (511 : Nat) < 512 := by decide +kernel

/-- A literal where BEST finds nothing, and the backreference after it. -/
theorem witness_RecordsFollowBest :
    findMatches tenBytes = [.lit 0x41#8] ++ .lit 0x41#8 :: [.ref 6#8 0#12] ∧
      (best tenBytes (([.lit 0x41#8] : List Match).map Match.len).sum).1 < 3 ∧
      findMatches tenBytes = [.lit 0x41#8, .lit 0x41#8] ++ .ref 6#8 0#12 :: [] ∧
      3 ≤ (best tenBytes (([.lit 0x41#8, .lit 0x41#8] : List Match).map Match.len).sum).1 :=
  ⟨test_parse_ten_equal_bytes, by decide +kernel, test_parse_ten_equal_bytes, by decide +kernel⟩

theorem witness_DecodeOfContainerIsPayload : tenBytes.length ≤ 2 ^ 30 := by decide +kernel

end Sys2Proof.Machine.Tests
end

section
/-! What an instruction, a completion step and a step of the block can do, said once each as named cases. -/

namespace Sys2Proof.Machine

/-- Everything the instruction `i` can do in the state `s`: the access is refused, it reads, it is one of the writes, or a
record joins the bit writer. The writes that a run locks carry the fact that BUSY was 0 (40 R74). -/
inductive ExecEffect (s : State) : Instr → State → Prop where
  | refused (i : Instr) (r : AccessReason) : ExecEffect s i (s.accessError r)
  | readCsr (i : Instr) (d : Word) : ExecEffect s i (s.respondData d)
  | readBuffer (i : Instr) (d : Word) : ExecEffect s i (s.respondBuffer d)
  | softReset (d : Word) : ExecEffect s (.cmdSoftReset d) s.softReset.respondOkay
  | start (d : Word) (idle : s.busy = false) : ExecEffect s (.cmdStart d) (s.startRun d).respondOkay
  | ctrl (d : Word) : ExecEffect s (.wrCtrl d) { s with irqEn := ctrlIrqEn d }.respondOkay
  | acknowledge (d : Word) : ExecEffect s (.wrStatus d) (s.acknowledge d).respondOkay
  | key (d : Word) (idle : s.busy = false) : ExecEffect s (.wrKey d) { s with key := d }.respondOkay
  | srcLen (d : Word) (idle : s.busy = false) : ExecEffect s (.wrSrcLen d) { s with srcLen := d }.respondOkay
  | ibuf (off : Off30) (d : Word) (idle : s.busy = false) :
      ExecEffect s (.wrIbuf off d) { s with ibuf := s.ibuf.setWord (bufIndex off) d }.respondOkay
  | record (i : Instr) (m : Match) : ExecEffect s i (s.packRecord m)

/-- A guarded write is refused during a run and performed otherwise (40 R74). -/
theorem execEffect_unlessBusy {s t : State} {i : Instr} (performed : s.busy = false → ExecEffect s i t) :
    ExecEffect s i (s.unlessBusy t) := by
  rcases s.unlessBusy_cases t with ⟨-, heq⟩ | ⟨idle, heq⟩
  · rw [heq]
    exact .refused i .busyWrite
  · rw [heq]
    exact performed idle

/-- Every answer of `exec` is one of the cases of `ExecEffect`. -/
theorem exec_effect {i : Instr} {s t : State} (h : exec i s = .next t) : ExecEffect s i t := by
  cases i with
  | accErrReservedRegion | accErrMisaligned | accErrUnallocated | accErrOutOfRange | wrRoId | wrRoSymCount | wrRoOutLen
  | wrRoIbufSize | wrRoObufSize | wrObuf => cases h; exact .refused _ _
  | rdId | rdCtrl | rdStatus | rdKey | rdSrcLen | rdSymCount | rdOutLen | rdIbufSize | rdObufSize =>
      cases h; exact .readCsr _ _
  | rdIbuf | rdObuf => cases h; exact .readBuffer _ _
  | cmdSoftReset d => cases h; exact .softReset d
  | wrCtrl d => cases h; exact .ctrl d
  | wrStatus d => cases h; exact .acknowledge d
  | cmdStart d => cases h; exact execEffect_unlessBusy (.start d)
  | wrKey d => cases h; exact execEffect_unlessBusy (.key d)
  | wrSrcLen d => cases h; exact execEffect_unlessBusy (.srcLen d)
  | wrIbuf off d => cases h; exact execEffect_unlessBusy (.ibuf off d)
  | lit | ref | refL2 => cases h; exact .record _ _

/-- Everything a step can do: an idle engine only takes the agenda's head (an empty agenda has none), a run is completed, an
issued instruction has its effect, or hardware reset is asserted. -/
inductive StepEffect (s : State) : State → Prop where
  | idle (notBusy : s.busy = false) : StepEffect s s.advance
  | completed (running : s.busy = true) : StepEffect s s.advance.complete
  | issued {i : Instr} {t : State} (head : s.issues i) (effect : ExecEffect s.advance i t) : StepEffect s t
  | hardReset (head : s.resetNext) : StepEffect s s.advance.hardReset

theorem advance_of_agenda_nil {s : State} (ha : s.agenda = []) : s.advance = s := by
  cases s
  cases ha
  rfl

/-- The engine's turn completes a run in progress and leaves an idle block as it is (10 R14). -/
theorem stepEffect_engineStep (s : State) : StepEffect s s.advance.engineStep := by
  rcases s.advance.engineStep_cases with ⟨running, heq⟩ | ⟨notBusy, heq⟩
  · rw [heq]
    exact .completed running
  · rw [heq]
    exact .idle notBusy

/-- Every answer of `step` is one of the cases of `StepEffect`. -/
theorem step_effect {s t : State} (h : step s = .next t) : StepEffect s t := by
  rcases step_cases h with ⟨ha, rfl⟩ | ⟨c, rest, ha, hexec⟩ | ⟨rest, ha, rfl⟩ | ⟨rest, ha, rfl⟩
  · simpa only [advance_of_agenda_nil ha] using stepEffect_engineStep s
  · exact .issued ⟨c, rest, ha, rfl⟩ (exec_effect hexec)
  · exact stepEffect_engineStep s
  · exact .hardReset ⟨rest, ha⟩

/-- The completion step ends in LEN_RANGE, in OBUF_OVERFLOW or with the container in OBUF; `u` is the state with the working
state that the units have left (46 R136). -/
theorem complete_outcome (s : State) :
    s.complete = s.runError .lenRange ∨
      ∃ u, u = { s with work := runUnits s.payload s.key } ∧
        ((∃ m n, s.complete = u.runError (.obufOverflow m n)) ∨
          ((encodePayload s.payload s.key).container.length ≤ s.params.obufSize.toNat ∧
            s.complete = u.finishRun (encodePayload s.payload s.key))) := by
  rcases s.complete_cases with ⟨-, heq⟩ | ⟨-, heq⟩
  · exact .inl heq
  · refine .inr ⟨_, rfl, ?_⟩
    rw [heq]
    rcases State.deliver_cases { s with work := runUnits s.payload s.key } (encodePayload s.payload s.key) with
      ⟨-, hdel⟩ | ⟨hfits, hdel⟩
    · exact .inl ⟨_, _, hdel⟩
    · exact .inr ⟨hfits, hdel⟩

@[simp] theorem State.complete_busy (s : State) : s.complete.busy = false := by
  rcases complete_outcome s with heq | ⟨u, rfl, ⟨m, n, heq⟩ | ⟨-, heq⟩⟩ <;> simp [heq]

@[simp] theorem State.complete_accErr (s : State) : s.complete.accErr = s.accErr := by
  rcases complete_outcome s with heq | ⟨u, rfl, ⟨m, n, heq⟩ | ⟨-, heq⟩⟩ <;> simp [heq]

@[simp] theorem State.complete_ibuf (s : State) : s.complete.ibuf = s.ibuf := by
  rcases complete_outcome s with heq | ⟨u, rfl, ⟨m, n, heq⟩ | ⟨-, heq⟩⟩ <;> simp [heq]

end Sys2Proof.Machine
end

section
/-! The internal working state (10 section 5) is read by no operation outside it. -/

namespace Sys2Proof.Machine

/-- The state with another internal working state. -/
def State.withWork (s : State) (w : Work) : State := { s with work := w }

@[simp] theorem State.withWork_agenda (s : State) (w : Work) : (s.withWork w).agenda = s.agenda := rfl
@[simp] theorem State.withWork_params (s : State) (w : Work) : (s.withWork w).params = s.params := rfl
@[simp] theorem State.withWork_srcLen (s : State) (w : Work) : (s.withWork w).srcLen = s.srcLen := rfl
@[simp] theorem State.withWork_busy (s : State) (w : Work) : (s.withWork w).busy = s.busy := rfl
@[simp] theorem State.withWork_advance (s : State) (w : Work) : (s.withWork w).advance = s.advance.withWork w := rfl

/-- Two states that differ at most in the internal working state. -/
def State.EqOutsideWork (s s' : State) : Prop := ∃ w, s' = s.withWork w

theorem unlessBusy_eqOutsideWork {s t t' : State} (w : Work) (ht : t.EqOutsideWork t') :
    (s.unlessBusy t).EqOutsideWork ((s.withWork w).unlessBusy t') := by
  rcases s.unlessBusy_cases t with ⟨running, heq⟩ | ⟨idle, heq⟩
  · rw [heq, State.unlessBusy_running _ _ (by simpa using running)]
    exact ⟨w, rfl⟩
  · rw [heq, State.unlessBusy_idle _ _ (by simpa using idle)]
    exact ht

/-- No host access reads the working state; a record changes only it (log 7). -/
theorem exec_withWork (i : Instr) (s : State) (w : Work) :
    ∃ t t', exec i s = .next t ∧ exec i (s.withWork w) = .next t' ∧ t.EqOutsideWork t' := by
  cases i with
  | cmdStart | wrKey | wrSrcLen | wrIbuf => exact ⟨_, _, rfl, rfl, unlessBusy_eqOutsideWork w ⟨w, rfl⟩⟩
  | cmdSoftReset => exact ⟨_, _, rfl, rfl, Work.initial, rfl⟩
  | lit | ref | refL2 => exact ⟨_, _, rfl, rfl, _, rfl⟩
  | _ => exact ⟨_, _, rfl, rfl, w, rfl⟩

/-- The units start from the payload and the key alone, so the completion step overwrites the working state or, on LEN_RANGE,
leaves it (46 R136, log 8). -/
theorem complete_withWork (s : State) (w : Work) : s.complete.EqOutsideWork (s.withWork w).complete := by
  unfold State.complete
  rw [State.withWork_params, State.withWork_srcLen]
  split
  · exact ⟨w, rfl⟩
  · exact ⟨_, rfl⟩

theorem engineStep_withWork (s : State) (w : Work) : s.engineStep.EqOutsideWork (s.withWork w).engineStep := by
  cases hbusy : s.busy with
  | true => simpa [State.engineStep, hbusy] using complete_withWork s w
  | false => exact ⟨w, by simp [State.engineStep, hbusy]⟩

/-- One step of two states that differ only in the working state: a commuting square. -/
theorem step_withWork (s : State) (w : Work) :
    ∃ t t', step s = .next t ∧ step (s.withWork w) = .next t' ∧ t.EqOutsideWork t' := by
  unfold step
  rw [State.withWork_agenda]
  match s.agenda with
  | [] => exact ⟨_, _, rfl, rfl, engineStep_withWork s w⟩
  | .issue c :: _ => exact exec_withWork (decode s.params c) s.advance w
  | .engine :: _ => exact ⟨_, _, rfl, rfl, engineStep_withWork s.advance w⟩
  | .hardReset :: _ => exact ⟨_, _, rfl, rfl, Work.initial, rfl⟩

/-- A run begins with its first step. -/
theorem core_run_succ {s u : State} (n : Nat) (h : step s = .next u) :
    Sys2Proof.core.run (n + 1) s = Sys2Proof.core.run n u := by
  simp only [Host.Core.run, Sys2Proof.core, h]

/-- Any number of steps keeps two states equal outside the working state. -/
theorem run_eqOutsideWork (n : Nat) {s s' t : State} (hs : s.EqOutsideWork s')
    (h : Sys2Proof.core.run n s = .next t) : ∃ t', Sys2Proof.core.run n s' = .next t' ∧ t.EqOutsideWork t' := by
  induction n generalizing s s' with
  | zero => cases h; exact ⟨s', rfl, hs⟩
  | succ n ih =>
    obtain ⟨w, rfl⟩ := hs
    obtain ⟨u, u', hu, hu', hrel⟩ := step_withWork s w
    rw [core_run_succ n hu] at h
    rw [core_run_succ n hu']
    exact ih hrel h

/-- Settles O34, by induction on the number of steps over the commuting square of one step. -/
theorem workingStateIsUnobservable : Obligations.WorkingStateIsUnobservable := by
  intro n s t w h
  obtain ⟨t', hrun, w', rfl⟩ := run_eqOutsideWork n ⟨w, rfl⟩ h
  exact ⟨w', hrun⟩

end Sys2Proof.Machine
end

section
/-! The safety statements about single fields (10 R21, R27, R28, R36). -/

namespace Sys2Proof.Machine

/-- Settles O27: the completion step and both resets leave BUSY = 0, and of the other events only an accepted START writes
it. -/
theorem busyRisesOnlyByStart : Obligations.BusyRisesOnlyByStart := by
  intro s t h hidle hrun
  cases step_effect h with
  | idle _ => simp [hidle] at hrun
  | completed _ => simp at hrun
  | hardReset _ => simp at hrun
  | issued head effect =>
    cases effect with
    | start d _ => exact ⟨d, head⟩
    | _ => simp [hidle] at hrun

/-- Settles O28: only an acknowledgement of it and the two resets write 0 to ACCERR. -/
theorem accessErrorBitIsSticky : Obligations.AccessErrorBitIsSticky := by
  intro s t h hset hclear
  cases step_effect h with
  | idle _ => simp [hset] at hclear
  | completed _ => simp [hset] at hclear
  | hardReset head => exact .inr (.inr head)
  | issued head effect =>
    cases effect with
    | softReset d => exact .inr (.inl ⟨d, head⟩)
    | acknowledge d => exact .inl ⟨d, head, by simpa [hset, clearsAccErr] using hclear⟩
    | _ => simp [hset] at hclear

/-- Settles O29: of the operations only WR_IBUF writes IBUF, and it changes no byte outside its four. -/
theorem ibufChangesOnlyByItsWrites : Obligations.IbufChangesOnlyByItsWrites := by
  intro s t a hwf h hne
  cases step_effect h with
  | idle _ => simp at hne
  | completed _ => simp at hne
  | hardReset head => exact .inr head
  | issued head effect =>
    cases effect with
    | ibuf off d idle =>
      have covered : off.toNat ≤ a ∧ a < off.toNat + 4 := by
        by_contra hout
        apply hne
        have rising := ((Memory.wf_iff _ _).1 hwf).1
        simp [Memory.byteAt_setWord _ rising, bufIndex, hout]
      exact .inl ⟨off, d, head, idle, covered⟩
    | _ => simp at hne

/-- Settles O30: without a run the completion step is not enabled, an accepted START and both resets clear DONE, and nothing
else writes OBUF or its counts. -/
theorem containerStaysWhileDone : Obligations.ContainerStaysWhileDone := by
  intro s t h hidle hdone hdone'
  cases step_effect h with
  | idle _ => simp
  | completed running => simp [hidle] at running
  | hardReset _ => simp at hdone'
  | issued _ effect =>
    cases effect with
    | start d _ => simp at hdone'
    | softReset d => simp at hdone'
    | _ => simp

end Sys2Proof.Machine
end

section
/-! Facts about the builds the spec allows (00 R8) and about the decoded WR_IBUF (30 R69). -/

namespace Sys2Proof

/-- A choice between two terms that are not `x` is not `x`. -/
theorem ite_ne_of_ne {α : Type} {p : Prop} [Decidable p] {a b x : α} (ha : a ≠ x) (hb : b ≠ x) :
    (if p then a else b) ≠ x := by
  split
  · exact ha
  · exact hb

/-- No row of the CSR region is a write to IBUF (30 R69). -/
theorem decodeCsr_ne_wrIbuf (acc : Access) (csrOff off : Off30) (d : Word) : decodeCsr acc csrOff ≠ .wrIbuf off d := by
  cases acc with
  | read =>
    unfold decodeCsr decodeCsrRead
    repeat' refine ite_ne_of_ne ?_ ?_
    all_goals exact Instr.noConfusion
  | write data =>
    unfold decodeCsr decodeCsrWrite decodeCtrlWrite
    repeat' refine ite_ne_of_ne ?_ ?_
    all_goals exact Instr.noConfusion

/-- No row of the OBUF region is a write to IBUF (30 R69). -/
theorem decodeObuf_ne_wrIbuf (p : Params) (acc : Access) (obufOff off : Off30) (d : Word) :
    decodeObuf p acc obufOff ≠ .wrIbuf off d := by
  unfold decodeObuf
  cases acc <;> split_ifs <;> simp

/-- Row 12 holds below IBUF_SIZE only (30 R69). -/
theorem inside_of_decodeIbuf_eq_wrIbuf {p : Params} {acc : Access} {ibufOff off : Off30} {d : Word}
    (h : decodeIbuf p acc ibufOff = .wrIbuf off d) : ibufOff = off ∧ off.toNat < p.ibufSize.toNat := by
  unfold decodeIbuf at h
  split_ifs at h with hout
  cases acc with
  | read => simp at h
  | write data =>
    obtain ⟨rfl, rfl⟩ := Instr.wrIbuf.inj h
    exact ⟨rfl, by omega⟩

/-- A decoded WR_IBUF is aligned and starts inside IBUF (30 R69). -/
theorem wrIbuf_inside_of_decode {p : Params} {c : CodeWord} {off : Off30} {d : Word} (h : decode p c = .wrIbuf off d) :
    wordAligned off = true ∧ off.toNat < p.ibufSize.toNat := by
  cases c with
  | record w =>
    simp only [decode, decodeRecord] at h
    split_ifs at h
  | haw w =>
    simp only [decode, decodeHaw] at h
    cases hr : hawRegion w with
    | reserved => simp [hr] at h
    | csr =>
      rw [hr] at h
      split_ifs at h
      exact absurd h (decodeCsr_ne_wrIbuf _ _ _ _)
    | obuf =>
      rw [hr] at h
      split_ifs at h
      exact absurd h (decodeObuf_ne_wrIbuf _ _ _ _ _)
    | ibuf =>
      rw [hr] at h
      split_ifs at h with aligned
      obtain ⟨rfl, inside⟩ := inside_of_decodeIbuf_eq_wrIbuf h
      exact ⟨offAligned_eq (hawOff w) ▸ aligned, inside⟩

theorem Params.wf_ibufSize_mod {p : Params} (h : p.wf = true) : p.ibufSize.toNat % 4 = 0 := by
  simp only [Params.wf, Bool.and_eq_true, decide_eq_true_eq] at h
  omega

theorem Params.wf_obufSize_le {p : Params} (h : p.wf = true) : p.obufSize.toNat ≤ 2 ^ 30 := by
  simp only [Params.wf, Bool.and_eq_true, decide_eq_true_eq] at h
  omega

end Sys2Proof
end

section
/-! The invariant of the block (10 R21, R25, R27, R28, R35). Operations first, then the instructions, then the step. -/

namespace Sys2Proof.Machine

/-- The container starts with the tag (46 R127). -/
theorem container_getElem?_tag (p : List Byte) (k : Word) {i : Nat} (hi : i < 16) :
    (encodePayload p k).container[i]? = tag[i]? := by
  simp only [encodePayload, assemble, header, List.append_assoc]
  exact List.getElem?_append_left (by simpa using hi)

namespace State.Inv

variable {s : State}

theorem respondOkay (h : s.Inv) : s.respondOkay.Inv := { h with }

theorem respondData (h : s.Inv) (d : Word) : (s.respondData d).Inv := { h with }

theorem respondBuffer (h : s.Inv) (d : Word) : (s.respondBuffer d).Inv := { h with }

theorem accessError (h : s.Inv) (r : AccessReason) : (s.accessError r).Inv := { h with }

theorem advance (h : s.Inv) : s.advance.Inv := { h with }

theorem setIrqEn (h : s.Inv) (b : Bool) : State.Inv { s with irqEn := b } := { h with }

theorem setKey (h : s.Inv) (k : Word) : State.Inv { s with key := k } := { h with }

theorem setSrcLen (h : s.Inv) (n : Word) : State.Inv { s with srcLen := n } := { h with }

theorem setIbuf (h : s.Inv) {m : Memory} (hm : m.wf s.params.ibufSize.toNat = true) :
    State.Inv { s with ibuf := m } := { h with ibuf_wf := hm }

/-- The completion step's own tables: one entry per symbol, and at most 7 pending bits. -/
theorem setRunUnits (h : s.Inv) (p : List Byte) (k : Word) : State.Inv { s with work := runUnits p k } :=
  { h with
    freq_length := by simp only [runUnits, count_length]
    depth_length := by simp only [runUnits, buildDepths_depth_length]
    code_length := by simp only [runUnits, assignCodes_length]
    acc_length := by simp only [runUnits, packAll_acc_length] }

theorem packRecord (h : s.Inv) (m : Match) : (s.packRecord m).Inv :=
  { h with acc_length := packMatch_acc_length _ _ _ h.acc_length m }

theorem hardReset (h : s.Inv) : s.hardReset.Inv := by
  constructor <;> simp [h.params_wf, Work.initial, BitWriter.empty]

theorem softReset (h : s.Inv) : s.softReset.Inv := by
  constructor <;> simp [h.params_wf, h.ibuf_wf, Work.initial, BitWriter.empty]

theorem startRun (h : s.Inv) (d : Word) : (s.startRun d).Inv :=
  { h with
    not_busy_done := by simp
    not_busy_error := by simp
    not_done_error := by simp
    errCode_legal := by simp
    errCode_iff := by simp
    clamp_success := by simp
    running_counts := by simp
    done_len := by simp
    done_bytes := by simp
    done_tag := by simp }

theorem acknowledge (h : s.Inv) (d : Word) : (s.acknowledge d).Inv := by
  have done_of : (s.acknowledge d).done = true → s.done = true := Bool.and_elim_left
  have error_of : (s.acknowledge d).error = true → s.error = true := Bool.and_elim_left
  exact
    { h with
      not_busy_done := fun ⟨hb, hd⟩ => h.not_busy_done ⟨hb, done_of hd⟩
      not_busy_error := fun ⟨hb, he⟩ => h.not_busy_error ⟨hb, error_of he⟩
      not_done_error := fun ⟨hd, he⟩ => h.not_done_error ⟨done_of hd, error_of he⟩
      errCode_legal := by
        cases hc : clearsError d <;> simp [hc, h.errCode_legal]
      errCode_iff := by
        cases hc : clearsError d <;> simp [hc, h.errCode_iff]
      clamp_success := fun hc => by simp [h.clamp_success hc]
      done_len := fun hd => h.done_len (done_of hd)
      done_bytes := fun hd => h.done_bytes (done_of hd)
      done_tag := fun hd => h.done_tag (done_of hd) }

theorem runError (h : s.Inv) (e : RunError) : (s.runError e).Inv :=
  { h with
    not_busy_done := by simp
    not_busy_error := by simp
    not_done_error := by simp
    errCode_legal := by cases e <;> simp [RunError.code]
    errCode_iff := by cases e <;> simp [RunError.code]
    clamp_success := by simp
    running_counts := by simp
    obuf_wf := Memory.wf_nil _
    done_len := by simp
    done_bytes := by simp
    done_tag := by simp }

/-- The container's length is not reduced when it is stored in OUT_LEN, since it fits an OBUF of at most `2^30` bytes. -/
theorem finishRun_outLen_toNat (h : s.Inv) {e : Encoded} (hfits : e.container.length ≤ s.params.obufSize.toNat) :
    (s.finishRun e).outLen.toNat = e.container.length := by
  have hsize := Params.wf_obufSize_le h.params_wf
  simp only [State.finishRun_outLen, BitVec.toNat_ofNat]
  omega

theorem finishRun (h : s.Inv) (running : s.busy = true) {p : List Byte} {k : Word}
    (hfits : (encodePayload p k).container.length ≤ s.params.obufSize.toNat) :
    (s.finishRun (encodePayload p k)).Inv := by
  have hlen := h.finishRun_outLen_toNat hfits
  have hcontainer := container_length p k
  have noError : s.error = false := by
    simpa [running] using h.not_busy_error
  exact
    { h with
      not_busy_done := by simp
      not_busy_error := by simp
      not_done_error := by simp [noError]
      clamp_success := fun _ => ⟨rfl, noError⟩
      running_counts := by simp
      obuf_wf := Memory.setFront_wf h.obuf_wf hfits
      done_len := fun _ => by
        rw [hlen]
        exact ⟨by omega, hfits⟩
      done_bytes := fun _ i hi => by
        rw [hlen] at hi
        simp [Memory.byteAt_setFront, hi]
      done_tag := fun _ i hi => by
        have hlt : i < (encodePayload p k).container.length := by omega
        rw [State.finishRun_obuf, Memory.byteAt_setFront, if_pos hlt, container_getElem?_tag p k hi] }

theorem complete (h : s.Inv) (running : s.busy = true) : s.complete.Inv := by
  rcases complete_outcome s with heq | ⟨u, rfl, ⟨m, n, heq⟩ | ⟨hfits, heq⟩⟩
  · rw [heq]
    exact h.runError _
  · rw [heq]
    exact (h.setRunUnits _ _).runError _
  · rw [heq]
    exact (h.setRunUnits _ _).finishRun running hfits

/-- Every effect of a decoded instruction keeps the invariant. -/
theorem execEffect (h : s.Inv) {c : CodeWord} {t : State} (effect : ExecEffect s (decode s.params c) t) : t.Inv := by
  generalize hi : decode s.params c = i at effect
  cases effect with
  | refused _ r => exact h.accessError r
  | readCsr _ d => exact h.respondData d
  | readBuffer _ d => exact h.respondBuffer d
  | softReset _ => exact h.softReset.respondOkay
  | start d _ => exact (h.startRun d).respondOkay
  | ctrl d => exact (h.setIrqEn _).respondOkay
  | acknowledge d => exact (h.acknowledge d).respondOkay
  | key d _ => exact (h.setKey d).respondOkay
  | srcLen d _ => exact (h.setSrcLen d).respondOkay
  | ibuf off d _ =>
    obtain ⟨aligned, inside⟩ := wrIbuf_inside_of_decode hi
    have room := wordAligned_room aligned (Params.wf_ibufSize_mod h.params_wf) inside
    exact (h.setIbuf (Memory.setWord_wf h.ibuf_wf room d)).respondOkay
  | record _ m => exact h.packRecord m

end State.Inv

/-- Settles O25: each of the four things a step can do keeps the invariant. -/
theorem everyStepKeepsInvariant : Obligations.EveryStepKeepsInvariant := by
  intro s t h hstep
  cases step_effect hstep with
  | idle _ => exact h.advance
  | completed running => exact h.advance.complete running
  | hardReset _ => exact h.advance.hardReset
  | issued head effect =>
    obtain ⟨c, _, _, rfl⟩ := head
    exact h.advance.execEffect effect

end Sys2Proof.Machine
end

section
/-! The buffers as the host port sees them (20 R45, R46): a read answers and changes nothing, and IBUF gives back what was
written. -/

namespace Sys2Proof.Machine

/-- A read answers its word at once: a CSR as it stands, a buffer with the free bytes it may need (40 R73, R75, R83, R85). -/
theorem exec_of_isHostRead {i : Instr} (s : State) (h : isHostRead i = true) :
    ∃ d, exec i s = .next (s.respondData d) ∨ exec i s = .next (s.respondBuffer d) := by
  cases i with
  | rdId | rdCtrl | rdStatus | rdKey | rdSrcLen | rdSymCount | rdOutLen | rdIbufSize | rdObufSize =>
    exact ⟨_, .inl rfl⟩
  | rdIbuf | rdObuf => exact ⟨_, .inr rfl⟩
  | _ => simp [isHostRead] at h

/-- Settles O23: neither way of answering a read writes a field of the block. -/
theorem readsHaveNoSideEffects : Obligations.ReadsHaveNoSideEffects := by
  intro i s h
  obtain ⟨d, heq | heq⟩ := exec_of_isHostRead s h
  · exact ⟨_, heq, rfl⟩
  · exact ⟨_, heq, rfl⟩

theorem exec_rdIbuf (s : State) (off : Off30) :
    exec (.rdIbuf off) s = .next (s.respondBuffer (s.ibufWord (bufIndex off))) := rfl

/-- Without a run WR_IBUF is performed (40 R74, R84). -/
theorem exec_wrIbuf_idle {s : State} (idle : s.busy = false) (off : Off30) (d : Word) :
    exec (.wrIbuf off d) s = .next { s with ibuf := s.ibuf.setWord (bufIndex off) d }.respondOkay :=
  congrArg Host.Outcome.next (s.unlessBusy_idle _ idle)

/-- A written byte of IBUF is what its lane shows; no free byte is drawn for it (40 R83). -/
theorem State.ibufLane_of_byteAt {s : State} {off i : Nat} {b : Byte} (h : s.ibuf.byteAt (off + i) = some b) :
    s.ibufLane off i = b := by
  rw [State.ibufLane, Memory.byteOr, h, Option.getD_some]

/-- `MemRead` after `MemWrite` at one index (20 R46): each lane shows its byte of the word, and the lanes make up the
word. -/
theorem State.ibufWord_of_setWord {s : State} {m : Memory} (rising : m.Pairwise fun a b => a.1 < b.1) {off : Nat}
    {d : Word} (h : s.ibuf = m.setWord off d) : s.ibufWord off = d := by
  have lane (i : Nat) (hi : i < 4) : s.ibufLane off i = laneOf d i := by
    apply State.ibufLane_of_byteAt
    rw [h, Memory.byteAt_setWord m rising, if_pos (by omega), Nat.add_sub_cancel_left]
  calc s.ibufWord off
      = wordOfLanes (laneOf d 0) (laneOf d 1) (laneOf d 2) (laneOf d 3) := by
        rw [State.ibufWord, lane 0 (by decide), lane 1 (by decide), lane 2 (by decide), lane 3 (by decide)]
    _ = d := wordOfLanes_laneOf d

/-- Settles O22: the write is performed since BUSY = 0, and the read after it finds all four bytes written. -/
theorem ibufReadsBackWhatWasWritten : Obligations.IbufReadsBackWhatWasWritten := by
  intro s off d idle hwf
  have rising := ((Memory.wf_iff _ _).1 hwf).1
  refine ⟨_, _, exec_wrIbuf_idle idle off d, exec_rdIbuf _ off, ?_⟩
  rw [State.respondBuffer_resp, State.ibufWord_of_setWord rising (State.respondOkay_ibuf _)]

end Sys2Proof.Machine
end

section
/-! The encoder and the decoder are inverse (30 R56 to R60, R66 to R69): the words of the four regions, then the symbol
records, then the words' own bits. -/

namespace Sys2Proof

/-! What a host access word decodes to, by its region and offset. -/

/-- A host access word is decoded by its three fields (30 R66). -/
theorem decode_haw_fields (p : Params) (w : BitVec 65) :
    decode p (.haw w) = decode p (.haw (mkHaw (hawAccess w) (hawRegion w) (hawOff w))) := by
  simp [decode, decodeHaw]

/-- Row 2 (30 R69). -/
theorem decode_misaligned (p : Params) (acc : Access) {r : Region} {off : Off30} (hr : r ≠ .reserved)
    (misaligned : wordAligned off = false) : decode p (.haw (mkHaw acc r off)) = .accErrMisaligned acc r off := by
  cases r with
  | reserved => exact absurd rfl hr
  | csr | ibuf | obuf => simp [decode_mkHaw, misaligned]

/-- Rows 3 and 5 to 10 (30 R69). -/
theorem decode_csr (p : Params) (acc : Access) {off : Off30} (aligned : wordAligned off = true) :
    decode p (.haw (mkHaw acc .csr off)) = decodeCsr acc off := by
  simp [decode_mkHaw, aligned]

/-- Rows 4, 11 and 12 (30 R69). -/
theorem decode_ibuf (p : Params) (acc : Access) {off : Off30} (aligned : wordAligned off = true) :
    decode p (.haw (mkHaw acc .ibuf off)) = decodeIbuf p acc off := by
  simp [decode_mkHaw, aligned]

/-- Rows 4, 13 and 14 (30 R69). -/
theorem decode_obuf (p : Params) (acc : Access) {off : Off30} (aligned : wordAligned off = true) :
    decode p (.haw (mkHaw acc .obuf off)) = decodeObuf p acc off := by
  simp [decode_mkHaw, aligned]

/-- An aligned CSR offset is one of the nine registers or lies above the last (10 R18). -/
theorem csrOffset_cases {off : Off30} (aligned : wordAligned off = true) :
    (∃ k < 9, off = BitVec.ofNat 30 (4 * k)) ∨ 0x20 < off.toNat := by
  simp only [wordAligned, decide_eq_true_eq] at aligned
  by_cases above : 0x20 < off.toNat
  · exact .inr above
  · refine .inl ⟨off.toNat / 4, by omega, BitVec.eq_of_toNat_eq ?_⟩
    rw [BitVec.toNat_ofNat]
    omega

/-- The three commands are told apart by `DATA[1:0]` (30 R67). -/
theorem decodeCtrlWrite_softReset {d : Word} (soft : d.getLsbD 1 = true) : decodeCtrlWrite d = .cmdSoftReset d :=
  if_pos soft

theorem decodeCtrlWrite_start {d : Word} (soft : d.getLsbD 1 = false) (start : d.getLsbD 0 = true) :
    decodeCtrlWrite d = .cmdStart d := by
  rw [decodeCtrlWrite, soft, start, if_neg Bool.false_ne_true, if_pos rfl]

theorem decodeCtrlWrite_wrCtrl {d : Word} (soft : d.getLsbD 1 = false) (start : d.getLsbD 0 = false) :
    decodeCtrlWrite d = .wrCtrl d := by
  rw [decodeCtrlWrite, soft, start, if_neg Bool.false_ne_true, if_neg Bool.false_ne_true]

/-! Every word that the encoder makes of fields decodes to a well-formed instruction with those fields. -/

theorem decodeCtrlWrite_wf_and_encode (p : Params) (d : Word) :
    (decodeCtrlWrite d).wf p = true ∧ encode (decodeCtrlWrite d) = .haw (mkHaw (.write d) .csr 0x04#30) := by
  cases soft : d.getLsbD 1 with
  | true =>
    rw [decodeCtrlWrite_softReset soft]
    exact ⟨soft, rfl⟩
  | false =>
    cases start : d.getLsbD 0 with
    | true =>
      rw [decodeCtrlWrite_start soft start]
      exact ⟨by rw [Instr.wf, soft, start]; rfl, rfl⟩
    | false =>
      rw [decodeCtrlWrite_wrCtrl soft start]
      exact ⟨by rw [Instr.wf, soft, start]; rfl, rfl⟩

/-- The nine registers (30 R69 rows 5 to 10). -/
theorem decodeCsr_register (p : Params) (acc : Access) {k : Nat} (hk : k < 9) :
    (decodeCsr acc (BitVec.ofNat 30 (4 * k))).wf p = true ∧
      encode (decodeCsr acc (BitVec.ofNat 30 (4 * k))) = .haw (mkHaw acc .csr (BitVec.ofNat 30 (4 * k))) := by
  cases acc with
  | read => interval_cases k <;> exact ⟨rfl, rfl⟩
  | write d =>
    obtain rfl | rfl | beyond : k = 0 ∨ k = 1 ∨ 2 ≤ k := by omega
    · exact ⟨rfl, rfl⟩
    · exact decodeCtrlWrite_wf_and_encode p d
    · interval_cases k <;> exact ⟨rfl, rfl⟩

theorem decodeCsr_wf_and_encode (p : Params) (acc : Access) {off : Off30} (aligned : wordAligned off = true) :
    (decodeCsr acc off).wf p = true ∧ encode (decodeCsr acc off) = .haw (mkHaw acc .csr off) := by
  rcases csrOffset_cases aligned with ⟨k, hk, rfl⟩ | above
  · exact decodeCsr_register p acc hk
  · rw [decodeCsr_above acc off above]
    exact ⟨by simp [Instr.wf, aligned, above], rfl⟩

theorem decodeIbuf_wf_and_encode (p : Params) (acc : Access) {off : Off30} (aligned : wordAligned off = true) :
    (decodeIbuf p acc off).wf p = true ∧ encode (decodeIbuf p acc off) = .haw (mkHaw acc .ibuf off) := by
  unfold decodeIbuf
  split
  case isTrue outside => exact ⟨by simp [Instr.wf, aligned, Params.sizeOf, outside], rfl⟩
  case isFalse inside =>
    have inside' := Nat.lt_of_not_le inside
    cases acc <;> exact ⟨by simp [Instr.wf, aligned, inside'], rfl⟩

theorem decodeObuf_wf_and_encode (p : Params) (acc : Access) {off : Off30} (aligned : wordAligned off = true) :
    (decodeObuf p acc off).wf p = true ∧ encode (decodeObuf p acc off) = .haw (mkHaw acc .obuf off) := by
  unfold decodeObuf
  split
  case isTrue outside => exact ⟨by simp [Instr.wf, aligned, Params.sizeOf, outside], rfl⟩
  case isFalse inside =>
    have inside' := Nat.lt_of_not_le inside
    cases acc <;> exact ⟨by simp [Instr.wf, aligned, inside'], rfl⟩

/-- The access map is sound for every access, region and offset (30 R69): the decoded row's condition holds, and its word
has the same fields. -/
theorem decode_mkHaw_wf_and_encode (p : Params) (acc : Access) (r : Region) (off : Off30) :
    (decode p (.haw (mkHaw acc r off))).wf p = true ∧
      encode (decode p (.haw (mkHaw acc r off))) = .haw (mkHaw acc r off) := by
  by_cases hr : r = .reserved
  · subst hr
    rw [decode_mkHaw]
    exact ⟨rfl, rfl⟩
  cases aligned : wordAligned off with
  | false =>
    rw [decode_misaligned p acc hr aligned]
    exact ⟨by simp [Instr.wf, hr, aligned], rfl⟩
  | true =>
    cases r with
    | reserved => exact absurd rfl hr
    | csr => rw [decode_csr p acc aligned]; exact decodeCsr_wf_and_encode p acc aligned
    | ibuf => rw [decode_ibuf p acc aligned]; exact decodeIbuf_wf_and_encode p acc aligned
    | obuf => rw [decode_obuf p acc aligned]; exact decodeObuf_wf_and_encode p acc aligned

/-! Symbol records (30 R56 to R60). -/

/-- A record is a backreference exactly when `R` is 1, and symbol 256 is the one with `V = 0` (30 R57 to R59). -/
theorem decode_record_cases (p : Params) (w : BitVec 21) :
    (w.getLsbD 8 = false ∧ decode p (.record w) = .lit (w.extractLsb' 0 8)) ∨
      (w.getLsbD 8 = true ∧ w.extractLsb' 0 8 = 0#8 ∧ decode p (.record w) = .refL2 (w.extractLsb' 9 12)) ∨
      (w.getLsbD 8 = true ∧ w.extractLsb' 0 8 ≠ 0#8 ∧
        decode p (.record w) = .ref (w.extractLsb' 0 8) (w.extractLsb' 9 12)) := by
  simp only [decode, decodeRecord]
  cases hr : w.getLsbD 8 with
  | false => exact .inl ⟨rfl, by simp only [Bool.false_eq_true, if_false]⟩
  | true =>
    by_cases hv : w.extractLsb' 0 8 = 0#8
    · exact .inr (.inl ⟨rfl, hv, by rw [if_pos rfl, if_pos hv]⟩)
    · exact .inr (.inr ⟨rfl, hv, by rw [if_pos rfl, if_neg hv]⟩)

theorem decode_record_wf (p : Params) (w : BitVec 21) : (decode p (.record w)).wf p = true := by
  rcases decode_record_cases p w with ⟨-, heq⟩ | ⟨-, -, heq⟩ | ⟨-, hv, heq⟩
  · rw [heq, Instr.wf]
  · rw [heq, Instr.wf]
  · simpa [heq, Instr.wf] using hv

/-! The bits of a word, from its fields. -/

theorem Region.toBits_ofBits (b : BitVec 2) : (Region.ofBits b).toBits = b := by
  revert b
  decide

@[simp] theorem hawRegion_toBits (w : BitVec 65) : (hawRegion w).toBits = w.extractLsb' 62 2 := Region.toBits_ofBits _

theorem extractLsb'_one_eq_ofBool {n : Nat} (w : BitVec n) (i : Nat) :
    w.extractLsb' i 1 = BitVec.ofBool (w.getLsbD i) := by
  ext j hj
  obtain rfl : j = 0 := by omega
  simp

/-- `W`, `REGION` and `OFF` are neighbours (30 R66). -/
theorem haw_address (w : BitVec 65) :
    ((w.extractLsb' 64 1 ++ w.extractLsb' 62 2) ++ w.extractLsb' 32 30 : BitVec (1 + 2 + 30)) =
      w.extractLsb' 32 33 := by
  rw [BitVec.extractLsb'_append_extractLsb'_eq_extractLsb' (show 64 = 62 + 2 from rfl),
    BitVec.extractLsb'_append_extractLsb'_eq_extractLsb' (show 62 = 32 + 30 from rfl)]

/-- A write's word is the four fields (30 R66). -/
theorem mkHaw_of_write {w : BitVec 65} (write : w.getLsbD 64 = true) :
    mkHaw (hawAccess w) (hawRegion w) (hawOff w) = w := by
  have hW : 1#1 = w.extractLsb' 64 1 := by rw [extractLsb'_one_eq_ofBool, write]; rfl
  rw [hawAccess, hawW, write, if_pos rfl, mkHaw, hW, hawRegion_toBits, hawOff, haw_address]
  exact BitVec.extractLsb'_append_extractLsb' (w := 33) (len := 32)

/-- A read's word is the three fields of its address, and DATA cleared (30 R66). -/
theorem mkHaw_of_read {w : BitVec 65} (read : w.getLsbD 64 = false) :
    mkHaw (hawAccess w) (hawRegion w) (hawOff w) = (w >>> 32) <<< 32 := by
  have hW : 0#1 = w.extractLsb' 64 1 := by rw [extractLsb'_one_eq_ofBool, read]; rfl
  have cleared : (w >>> 32) <<< 32 = (w.extractLsb' 32 33 ++ 0#32 : BitVec (33 + 32)) := by
    apply BitVec.eq_of_getLsbD_eq
    intro i hi
    rw [BitVec.getLsbD_append]
    by_cases low : i < 32
    · simp [low]
    · simp [low, hi, show i - 32 < 33 by omega]
  rw [hawAccess, hawW, read, if_neg Bool.false_ne_true, mkHaw, hW, hawRegion_toBits, hawOff, haw_address, cleared]

/-- A record's word is its three fields (30 R56, R60). -/
theorem mkRecord_fields (w : BitVec 21) :
    mkRecord (w.extractLsb' 9 12) (w.extractLsb' 8 1) (w.extractLsb' 0 8) = w := by
  rw [mkRecord, BitVec.extractLsb'_append_extractLsb'_eq_extractLsb' (show 9 = 8 + 1 from rfl)]
  exact BitVec.extractLsb'_append_extractLsb' (w := 13) (len := 8)

/-- The bits of SYM9, bits 8:0, cut out of a record's word (30 R56). -/
theorem mkRecord_and_sym (f : Off12) (r : BitVec 1) (v : Byte) : mkRecord f r v &&& 0x1FF#21 = mkRecord 0#12 r v := by
  have mask : 0x1FF#21 = ((0#12 ++ BitVec.allOnes 1) ++ BitVec.allOnes 8 : BitVec (12 + 1 + 8)) := by decide
  calc mkRecord f r v &&& 0x1FF#21
      = (((f ++ r) ++ v) &&& ((0#12 ++ BitVec.allOnes 1) ++ BitVec.allOnes 8) : BitVec (12 + 1 + 8)) := by
        rw [mask, mkRecord]
    _ = mkRecord 0#12 r v := by
        simp only [mkRecord, BitVec.and_append, BitVec.and_zero, BitVec.and_allOnes]

/-- A backreference record's word is its two operands with `R = 1` (30 R58, R60). -/
theorem encode_decode_ref (p : Params) {w : BitVec 21} (hr : w.getLsbD 8 = true) :
    encode (decode p (.record w)) = .record w := by
  have hR : 1#1 = w.extractLsb' 8 1 := by rw [extractLsb'_one_eq_ofBool, hr]; rfl
  have word : mkRecord (w.extractLsb' 9 12) 1#1 (w.extractLsb' 0 8) = w := by rw [hR, mkRecord_fields]
  rcases decode_record_cases p w with ⟨hr', -⟩ | ⟨-, hv, heq⟩ | ⟨-, -, heq⟩
  · exact absurd (hr.symm.trans hr') (by decide)
  · rw [heq, encode, ← hv, word]
  · rw [heq, encode, word]

/-- A literal record's word is its operand with `R = 0`, and nothing after it (30 R57). -/
theorem encode_decode_lit (p : Params) {w : BitVec 21} (hr : w.getLsbD 8 = false) :
    encode (decode p (.record w)) = .record (w &&& 0x1FF#21) := by
  have hR : 0#1 = w.extractLsb' 8 1 := by rw [extractLsb'_one_eq_ofBool, hr]; rfl
  have sym : w &&& 0x1FF#21 = mkRecord 0#12 0#1 (w.extractLsb' 0 8) := by
    rw [hR, ← mkRecord_and_sym (w.extractLsb' 9 12), mkRecord_fields]
  rcases decode_record_cases p w with ⟨-, heq⟩ | ⟨hr', -⟩ | ⟨hr', -⟩
  · rw [heq, encode, sym]
  · exact absurd (hr.symm.trans hr') (by decide)
  · exact absurd (hr.symm.trans hr') (by decide)

end Sys2Proof
end

section
/-! The statements on the encoding. -/

namespace Sys2Proof.Machine

/-- Settles O1: the encoder's word of each row has fields that select that row, and a record's word the fields of its
record. -/
theorem decodeOfEncodeIsInstruction : Obligations.DecodeOfEncodeIsInstruction := by
  intro p i hwf
  cases i with
  | accErrReservedRegion acc off => exact decode_mkHaw p acc .reserved off
  | accErrMisaligned acc r off =>
    obtain ⟨hr, misaligned⟩ : r ≠ .reserved ∧ wordAligned off = false := by simpa [Instr.wf] using hwf
    exact decode_misaligned p acc hr misaligned
  | accErrUnallocated acc off =>
    obtain ⟨aligned, above⟩ : wordAligned off = true ∧ 0x20 < off.toNat := by simpa [Instr.wf] using hwf
    exact (decode_csr p acc aligned).trans (decodeCsr_above acc off above)
  | accErrOutOfRange acc r off =>
    obtain ⟨⟨buffer, aligned⟩, outside⟩ :
        ((r = .ibuf ∨ r = .obuf) ∧ wordAligned off = true) ∧ p.sizeOf r ≤ off.toNat := by
      simpa [Instr.wf] using hwf
    rcases buffer with rfl | rfl
    · exact (decode_ibuf p acc aligned).trans (if_pos outside)
    · exact (decode_obuf p acc aligned).trans (if_pos outside)
  | rdId | rdCtrl | rdStatus | rdKey | rdSrcLen | rdSymCount | rdOutLen | rdIbufSize | rdObufSize =>
    exact decode_csr p .read (by decide)
  | wrRoId d | wrRoSymCount d | wrRoOutLen d | wrRoIbufSize d | wrRoObufSize d | wrStatus d | wrKey d | wrSrcLen d =>
    exact decode_csr p (.write d) (by decide)
  | cmdSoftReset d =>
    have soft : d.getLsbD 1 = true := by simpa only [Instr.wf] using hwf
    exact (decode_csr p (.write d) (by decide)).trans (decodeCtrlWrite_softReset soft)
  | cmdStart d =>
    obtain ⟨soft, start⟩ : d.getLsbD 1 = false ∧ d.getLsbD 0 = true := by
      simpa only [Instr.wf, Bool.and_eq_true, Bool.not_eq_true'] using hwf
    exact (decode_csr p (.write d) (by decide)).trans (decodeCtrlWrite_start soft start)
  | wrCtrl d =>
    obtain ⟨soft, start⟩ : d.getLsbD 1 = false ∧ d.getLsbD 0 = false := by
      simpa only [Instr.wf, Bool.and_eq_true, Bool.not_eq_true'] using hwf
    exact (decode_csr p (.write d) (by decide)).trans (decodeCtrlWrite_wrCtrl soft start)
  | rdIbuf off | wrIbuf off d =>
    obtain ⟨aligned, inside⟩ : wordAligned off = true ∧ off.toNat < p.ibufSize.toNat := by
      simpa [Instr.wf] using hwf
    exact (decode_ibuf p _ aligned).trans (if_neg inside.not_ge)
  | rdObuf off | wrObuf off d =>
    obtain ⟨aligned, inside⟩ : wordAligned off = true ∧ off.toNat < p.obufSize.toNat := by
      simpa [Instr.wf] using hwf
    exact (decode_obuf p _ aligned).trans (if_neg inside.not_ge)
  | lit v => simp [encode, decode, decodeRecord]
  | ref v f =>
    have hv : v ≠ 0#8 := by simpa [Instr.wf] using hwf
    simp [encode, decode, decodeRecord, hv]
  | refL2 f => simp [encode, decode, decodeRecord]

/-- Settles O2: host accesses row by row of the access map, symbol records by `R` and `V`. -/
theorem decodedInstructionsAreWellFormed : Obligations.DecodedInstructionsAreWellFormed := by
  intro p c
  cases c with
  | haw w =>
    rw [decode_haw_fields]
    exact (decode_mkHaw_wf_and_encode p _ _ _).1
  | record w => exact decode_record_wf p w

/-- Settles O3: the fields of a word make up the word, so what the encoder drops is what the decoder does not read. -/
theorem encodeOfDecodeKeepsBits : Obligations.EncodeOfDecodeKeepsBits := by
  refine ⟨fun p w write => ?_, fun p w read => ?_, fun p w hr => ?_, fun p w hr => ?_⟩
  · rw [decode_haw_fields, (decode_mkHaw_wf_and_encode p _ _ _).2, mkHaw_of_write write]
  · rw [decode_haw_fields, (decode_mkHaw_wf_and_encode p _ _ _).2, mkHaw_of_read read]
  · rw [encode_decode_ref p hr]
  · rw [encode_decode_lit p hr]

/-- Settles O4: fourteen closed words, decoded. -/
theorem specWordsDecodeToTheirOperations : Obligations.SpecWordsDecodeToTheirOperations := by
  unfold Obligations.SpecWordsDecodeToTheirOperations
  decide

end Sys2Proof.Machine
end

section
/-! The acknowledgement (40 R80). -/

namespace Sys2Proof.Machine

/-- WR_STATUS acknowledges what its data bits select and answers OKAY (30 R68, 40 R80). -/
theorem exec_wrStatus (d : Word) (s : State) : exec (.wrStatus d) s = .next (s.acknowledge d).respondOkay := rfl

/-- Settles O17: the three bits are those of 30 R68, and neither the acknowledgement nor the response writes another
field. -/
theorem wrStatusClearsSelectedBits : Obligations.WrStatusClearsSelectedBits := by
  intro s d
  rw [exec_wrStatus]
  rfl

end Sys2Proof.Machine
end

section
/-! The bit packer: records to tokens, tokens to bytes (30 R61, 45 R120 to R125). -/

namespace Sys2Proof.Machine

/-- The token of a literal is the code of its byte (30 R57, R61). -/
theorem token_lit (code : List Nat) (depth : List Byte) (v : Byte) :
    token code depth (.lit v) = bitsMsb (codeAt code v.toNat) (depthAt depth v.toNat) := by
  rw [token, Match.sym_lit_toNat]

/-- The token of a backreference is the code of symbol `256 + V` and then its offset field (30 R58, R61). -/
theorem token_ref (code : List Nat) (depth : List Byte) (v : Byte) (f : Off12) :
    token code depth (.ref v f) =
      bitsMsb (codeAt code (256 + v.toNat)) (depthAt depth (256 + v.toNat)) ++ bitsMsb f.toNat offsetBits := by
  rw [token, Match.sym_ref_toNat]

theorem token_length (code : List Nat) (depth : List Byte) (m : Match) :
    (token code depth m).length = tokenBits depth m := by
  cases m <;> simp [token, tokenBits, Match.isRef]

/-- The tokens of a symbol sequence have `nbits` bits (45 R125). -/
theorem flatMap_token_length (code : List Nat) (depth : List Byte) (s : List Match) :
    (s.flatMap (token code depth)).length = nbits depth s := by
  simp only [List.length_flatMap, token_length, nbits]

/-- PACK_MATCH appends the record's token (45 R122). -/
theorem packMatch_stream (code : List Nat) (depth : List Byte) {w : BitWriter} (h : w.acc.length ≤ 7) (m : Match) :
    (packMatch code depth w m).stream = w.stream ++ token code depth m := by
  cases m with
  | lit v => exact pushBits_stream w h _ _
  | ref v f =>
    rw [packMatch, pushOffset, pushBits_stream _ (pushBits_acc_length w h _ _), pushBits_stream w h, token,
      List.append_assoc]

theorem foldl_packMatch_stream (code : List Nat) (depth : List Byte) (s : List Match) {w : BitWriter}
    (h : w.acc.length ≤ 7) :
    (s.foldl (packMatch code depth) w).stream = w.stream ++ s.flatMap (token code depth) := by
  induction s generalizing w with
  | nil => simp
  | cons m s ih =>
    rw [List.foldl_cons, ih (packMatch_acc_length code depth w h m), packMatch_stream code depth h, List.flatMap_cons,
      List.append_assoc]

/-- Before the flush the stream is the tokens (45 R125). -/
theorem packAll_stream (code : List Nat) (depth : List Byte) (s : List Match) :
    (packAll code depth s).stream = s.flatMap (token code depth) :=
  foldl_packMatch_stream code depth s (Nat.zero_le 7)

theorem bitsOf_append (bs cs : List Byte) : bitsOf (bs ++ cs) = bitsOf bs ++ bitsOf cs := List.flatMap_append

theorem bitsOf_length (bs : List Byte) : (bitsOf bs).length = 8 * bs.length := by
  simp [bitsOf, List.length_flatMap, Nat.mul_comm]

theorem bitsOf_byteOfBits {bits : List Bool} (h : bits.length = 8) : bitsOf [byteOfBits bits] = bits := by
  rw [bitsOf, List.flatMap_singleton, bitsMsb_byteOfBits bits h]

/-- FINISH pads the stream to whole bytes with fewer than eight 0 bits (45 R124). -/
theorem bitsOf_finish {w : BitWriter} (h : w.acc.length ≤ 7) :
    ∃ pad < 8, bitsOf w.finish = w.stream ++ List.replicate pad false := by
  unfold BitWriter.finish
  split
  case isTrue whole => exact ⟨0, by decide, by simp [BitWriter.stream, bitsOf, whole]⟩
  case isFalse partly =>
    have := List.length_pos_iff.mpr partly
    refine ⟨8 - w.acc.length, by omega, ?_⟩
    rw [bitsOf_append, bitsOf_byteOfBits (by simp; omega), BitWriter.stream, bitsOf, List.append_assoc]

/-- Settles O56: the stream before the flush is the tokens, FINISH pads it to whole bytes, and the count of bytes follows
from the count of bits. -/
theorem bitstreamIsTheTokens : Obligations.BitstreamIsTheTokens := by
  intro code depth s
  obtain ⟨pad, hpad, bits⟩ := bitsOf_finish (packAll_acc_length code depth s)
  rw [packAll_stream] at bits
  refine ⟨⟨pad, hpad, bits⟩, ?_⟩
  have count : 8 * (pack s code depth).length = nbits depth s + pad := by
    rw [← bitsOf_length, pack, bits, List.length_append, flatMap_token_length, List.length_replicate]
  rw [ceilDiv]
  omega

/-- A presented record changes the bit writer alone, by its token (log 7). -/
theorem State.packRecord_appends {s : State} (h : s.work.writer.acc.length ≤ 7) (m : Match) :
    s.packRecord m = { s with work := { s.work with writer := (s.packRecord m).work.writer } } ∧
      (s.packRecord m).work.writer.stream = s.work.writer.stream ++ token s.work.code s.work.depth m :=
  ⟨rfl, packMatch_stream _ _ h m⟩

/-- Settles O24: each of the three records presents its Match record to PACK_MATCH. -/
theorem recordsAppendTheirToken : Obligations.RecordsAppendTheirToken := by
  intro s v f h
  obtain ⟨litFrame, litStream⟩ := State.packRecord_appends h (.lit v)
  obtain ⟨refFrame, refStream⟩ := State.packRecord_appends h (.ref v f)
  obtain ⟨refL2Frame, refL2Stream⟩ := State.packRecord_appends h (.ref 0#8 f)
  rw [token_lit] at litStream
  rw [token_ref, ← List.append_assoc] at refStream refL2Stream
  exact ⟨⟨_, rfl, litFrame, litStream⟩, ⟨_, rfl, refFrame, refStream⟩, ⟨_, rfl, refL2Frame, refL2Stream⟩⟩

end Sys2Proof.Machine
end

section
/-! The tree's symbols: every merge keeps them, so only symbols that occur get a raw depth (43 R102 to R106). -/

namespace Sys2Proof.Machine

/-- The symbols of the leaves below a node, first child first. -/
def Node.symbols : Node → List Sym
  | .leaf _ _ s => [s]
  | .inner _ _ l r => l.symbols ++ r.symbols

/-- The minimum and the other nodes are the nodes (43 R103). -/
theorem popMin_perm (x : Node) (xs : List Node) : ((popMin x xs).1 :: (popMin x xs).2).Perm (x :: xs) := by
  induction xs generalizing x with
  | nil => exact .refl _
  | cons y ys ih =>
    unfold popMin
    split
    · exact (List.Perm.swap _ _ _).trans ((ih y).cons x)
    · exact (List.Perm.swap _ _ _).trans (((ih x).cons y).trans (List.Perm.swap _ _ _))

/-- One merge of two or more nodes replaces two of them by their parent (43 R104); fewer stay as they are. -/
theorem mergeOnce_cases (nextId : Nat) (q : List Node) :
    mergeOnce nextId q = q ∨
      ∃ a b rest, q.Perm (a :: b :: rest) ∧ mergeOnce nextId q = .inner (a.freq + b.freq) nextId a b :: rest := by
  cases q with
  | nil => exact .inl rfl
  | cons x xs =>
    have first := popMin_perm x xs
    simp only [mergeOnce]
    cases hrest : (popMin x xs).2 with
    | nil => exact .inl rfl
    | cons y ys =>
      rw [hrest] at first
      exact .inr ⟨_, _, _, (first.symm.trans ((popMin_perm y ys).symm.cons _)), rfl⟩

theorem mergeOnce_symbols_perm (nextId : Nat) (q : List Node) :
    ((mergeOnce nextId q).flatMap Node.symbols).Perm (q.flatMap Node.symbols) := by
  rcases mergeOnce_cases nextId q with heq | ⟨a, b, rest, hperm, heq⟩
  · rw [heq]
  · rw [heq]
    refine List.Perm.trans ?_ (hperm.symm.flatMap_right Node.symbols)
    simp [Node.symbols]

theorem mergeTimes_symbols_perm (n nextId : Nat) (q : List Node) :
    ((mergeTimes n nextId q).flatMap Node.symbols).Perm (q.flatMap Node.symbols) := by
  induction n generalizing nextId q with
  | zero => exact .refl _
  | succ n ih => exact (ih (nextId + 1) (mergeOnce nextId q)).trans (mergeOnce_symbols_perm nextId q)

/-- MERGE keeps the leaves' symbols (43 R104). -/
theorem merge_symbols_perm (q : List Node) : ((merge q).flatMap Node.symbols).Perm (q.flatMap Node.symbols) :=
  mergeTimes_symbols_perm _ _ q

/-- DEPTHS lists the symbols below its node (43 R106). -/
theorem map_fst_rawDepths (d : Nat) (n : Node) : (rawDepths d n).map Prod.fst = n.symbols := by
  induction n generalizing d with
  | leaf f i s => rfl
  | inner f i l r ihl ihr => rw [rawDepths, List.map_append, ihl, ihr, Node.symbols]

/-- The leaves' symbols are the used symbols (43 R102). -/
theorem leaves_symbols (freq : List Nat) :
    (leaves freq).flatMap Node.symbols = (usedSymbols freq).map (BitVec.ofNat 9) := by
  calc (leaves freq).flatMap Node.symbols
      = ((usedSymbols freq).zipIdx.map Prod.fst).map (BitVec.ofNat 9) := by
        rw [leaves, List.flatMap_map, List.map_map, List.map_eq_flatMap]
        rfl
    _ = (usedSymbols freq).map (BitVec.ofNat 9) := by rw [List.zipIdx_map_fst]

theorem mem_usedSymbols {freq : List Nat} {s : Nat} : s ∈ usedSymbols freq ↔ s < alphabet ∧ 0 < freqAt freq s := by
  simp [usedSymbols]

/-- Only a used symbol gets a raw depth (43 R106 to R108). -/
theorem mem_usedSymbols_of_mem_rawDepthsOf {freq : List Nat} {sd : Sym × Nat} (h : sd ∈ rawDepthsOf freq) :
    sd.1.toNat ∈ usedSymbols freq := by
  have inTree : sd.1 ∈ (merge (leaves freq)).flatMap Node.symbols := by
    unfold rawDepthsOf at h
    split at h
    case h_1 => exact absurd h List.not_mem_nil
    case h_2 f i s rest heq =>
      rw [List.mem_singleton.mp h, heq]
      simp [Node.symbols]
    case h_3 f i l r rest heq =>
      rw [heq, List.flatMap_cons, ← map_fst_rawDepths 0]
      exact List.mem_append_left _ (List.mem_map_of_mem h)
  rw [(merge_symbols_perm _).mem_iff, leaves_symbols] at inTree
  obtain ⟨s, used, heq⟩ := List.mem_map.mp inTree
  have hs : s < 512 := (mem_usedSymbols.mp used).1
  rw [← heq, BitVec.toNat_ofNat, Nat.mod_eq_of_lt hs]
  exact used

/-- A symbol of frequency 0 has depth 0 (43 R108). -/
theorem depthAt_of_freqAt_eq_zero {freq : List Nat} {s : Nat} (hs : s < alphabet) (h : freqAt freq s = 0) :
    depthAt (buildFromFreq freq).depth s = 0 := by
  have notFound : (rawDepthsOf freq).find? (fun sd => sd.1.toNat == s) = none := by
    refine List.find?_eq_none.mpr fun sd hmem heq => ?_
    have used := mem_usedSymbols_of_mem_rawDepthsOf hmem
    rw [beq_iff_eq.mp heq, mem_usedSymbols] at used
    omega
  rw [buildFromFreq, depthAt_depthTable _ s hs, notFound]
  rfl

end Sys2Proof.Machine
end

section
/-! The match finder emits no record of length 2 (30 R59, 42 R96). -/

namespace Sys2Proof.Machine

theorem equalRun_le (p : List Byte) (lim a b : Nat) : equalRun p lim a b ≤ lim := by
  induction lim generalizing a b with
  | zero => exact Nat.le_refl 0
  | succ lim ih =>
    unfold equalRun
    split
    · exact Nat.succ_le_succ (ih _ _)
    · exact Nat.zero_le _

/-- A match is no longer than `MAX_MATCH` (42 R92). -/
theorem matchLen_le_maxMatch (p : List Byte) (pos off : Nat) : matchLen p pos off ≤ maxMatch :=
  (equalRun_le p _ _ _).trans (Nat.min_le_left _ _)

theorem foldl_bestStep_le_maxMatch (p : List Byte) (pos : Nat) (offs : List Nat) {b : Nat × Option Nat}
    (h : b.1 ≤ maxMatch) : (offs.foldl (bestStep p pos) b).1 ≤ maxMatch := by
  induction offs generalizing b with
  | nil => exact h
  | cons off offs ih =>
    refine ih ?_
    unfold bestStep
    split
    · exact matchLen_le_maxMatch p pos off
    · exact h

theorem best_le_maxMatch (p : List Byte) (pos : Nat) : (best p pos).1 ≤ maxMatch :=
  foldl_bestStep_le_maxMatch p pos _ (Nat.zero_le _)

/-- EMIT makes a literal, or a backreference of the best length, which is at least `MIN_MATCH` (42 R96). -/
theorem emit_cases (p : List Byte) (pos : Nat) (b : Nat × Option Nat) :
    (∃ v, (emit p pos b).1 = .lit v) ∨ (∃ off, minMatch ≤ b.1 ∧ (emit p pos b).1 = .mkRef b.1 off) := by
  unfold emit
  split
  · split
    case isTrue long => exact .inr ⟨_, long, rfl⟩
    case isFalse => exact .inl ⟨_, rfl⟩
  · exact .inl ⟨_, rfl⟩

/-- The record of length `L` has symbol `256 + (L - 2)` (30 R58). -/
theorem sym_mkRef_toNat {len : Nat} (off : Nat) (hmin : 2 ≤ len) (hmax : len ≤ maxMatch) :
    (Match.mkRef len off).sym.toNat = 254 + len := by
  have hlen : len ≤ 257 := hmax
  rw [Match.mkRef, Match.sym_ref_toNat, BitVec.toNat_ofNat]
  omega

theorem emit_sym_ne_lengthTwo (p : List Byte) (pos : Nat) : (emit p pos (best p pos)).1.sym.toNat ≠ 256 := by
  rcases emit_cases p pos (best p pos) with ⟨v, heq⟩ | ⟨off, long, heq⟩
  · rw [heq, Match.sym_lit_toNat]
    omega
  · have hmin : 3 ≤ (best p pos).1 := long
    rw [heq, sym_mkRef_toNat off (by omega) (best_le_maxMatch p pos)]
    omega

theorem exists_emit_of_mem_parseFrom {p : List Byte} {fuel pos : Nat} {m : Match} (h : m ∈ parseFrom p fuel pos) :
    ∃ q, m = (emit p q (best p q)).1 := by
  induction fuel generalizing pos with
  | zero => exact absurd h List.not_mem_nil
  | succ fuel ih =>
    unfold parseFrom at h
    split at h
    · rcases List.mem_cons.mp h with rfl | htail
      · exact ⟨pos, rfl⟩
      · exact ih htail
    · exact absurd h List.not_mem_nil

/-- No record is of symbol 256 (30 R59). -/
theorem sym_ne_lengthTwo_of_mem_findMatches {p : List Byte} {m : Match} (h : m ∈ findMatches p) :
    m.sym.toNat ≠ 256 := by
  obtain ⟨q, rfl⟩ := exists_emit_of_mem_parseFrom h
  exact emit_sym_ne_lengthTwo p q

end Sys2Proof.Machine
end

section
/-! The run's tables and the container's depth table at symbol 256 (30 R59). -/

namespace Sys2Proof.Machine

theorem runUnits_freq (p : List Byte) (k : Word) : (runUnits p k).freq = count (findMatches p) := by
  simp only [runUnits]

theorem runUnits_depth (p : List Byte) (k : Word) :
    (runUnits p k).depth = (buildFromFreq (count (findMatches p))).depth := by
  simp only [runUnits, buildDepths]

theorem runUnits_depth_length (p : List Byte) (k : Word) : (runUnits p k).depth.length = alphabet := by
  rw [runUnits_depth, buildFromFreq_depth_length]

/-- Symbol 256 has frequency 0 in every run (30 R59). -/
theorem freqAt_lengthTwo (p : List Byte) : freqAt (count (findMatches p)) 256 = 0 := by
  rw [freqAt_count _ _ (by decide), List.countP_eq_zero]
  intro m hm
  simpa using sym_ne_lengthTwo_of_mem_findMatches hm

/-- Symbol 256 has depth 0 in every run (30 R59). -/
theorem depthAt_lengthTwo (p : List Byte) (k : Word) : depthAt (runUnits p k).depth 256 = 0 := by
  rw [runUnits_depth]
  exact depthAt_of_freqAt_eq_zero (by decide) (freqAt_lengthTwo p)

/-- An entry of depth 0 is the keystream byte alone (41 R90). -/
theorem ksEncrypt_getElem?_of_depthAt_eq_zero {depth : List Byte} (ks : List Byte) {i : Nat} (hi : i < depth.length)
    (h : depthAt depth i = 0) : (ksEncrypt depth ks)[i]? = ks[i]? := by
  have entry : depth[i]? = some 0#8 := by
    rw [List.getElem?_eq_getElem hi]
    refine congrArg some (BitVec.eq_of_toNat_eq ?_)
    rwa [depthAt, List.getD_eq_getElem?_getD, List.getElem?_eq_getElem hi] at h
  rw [ksEncrypt, List.getElem?_zipWith, entry]
  cases ks[i]? <;> simp

/-- The container's depth table starts at byte 32 (30 R64, 46 R132). -/
theorem container_getElem?_depthTable (p : List Byte) (k : Word) {i : Nat} (hi : i < alphabet) :
    (encodePayload p k).container[32 + i]? = (ksEncrypt (runUnits p k).depth (ksSeq k))[i]? := by
  have hlen : (ksEncrypt (runUnits p k).depth (ksSeq k)).length = alphabet := by
    rw [ksEncrypt_length, runUnits_depth_length, ksSeq_length]
    rfl
  rw [encodePayload, assemble, List.append_assoc, List.getElem?_append_right (by rw [header_length]; omega),
    header_length, Nat.add_sub_cancel_left, List.getElem?_append_left (by rw [hlen]; exact hi)]

/-- Settles O47: no record has length 2, so symbol 256 is no leaf of the tree, and its encrypted depth is that of 0. -/
theorem lengthTwoIsNeverEmitted : Obligations.LengthTwoIsNeverEmitted := by
  intro p k
  refine ⟨fun m hm heq => ?_, ?_, depthAt_lengthTwo p k, ?_⟩
  · exact sym_ne_lengthTwo_of_mem_findMatches hm (by rw [heq]; rfl)
  · rw [runUnits_freq, freqAt_lengthTwo]
  · have inTable : 256 < (runUnits p k).depth.length := by rw [runUnits_depth_length]; decide
    rw [container_getElem?_depthTable p k (by decide),
      ksEncrypt_getElem?_of_depthAt_eq_zero _ inTable (depthAt_lengthTwo p k)]

end Sys2Proof.Machine
end

section
/-! What the host port answers, said once per operation that has no such lemma yet: the AccessError, the BUSY guard and the
writes behind it (40 R73, R74, R78, R81, R82, R84), and an issued access (log 5). -/

namespace Sys2Proof.Machine

/-- An AccessError sets ACCERR and answers ERR with read data 0, whatever its reason (60 R138). -/
theorem next_accessError (s : State) (r : AccessReason) :
    (.next (s.accessError r) : Result) = .next { s with accErr := true, resp := .err 0#32 } := rfl

/-- What a guarded write answers during a run, whatever it would have written (40 R74). -/
theorem next_unlessBusy_running {s : State} (running : s.busy = true) (t : State) :
    (.next (s.unlessBusy t) : Result) = .next { s with accErr := true, resp := .err 0#32 } := by
  rw [State.unlessBusy_running s t running, next_accessError]

/-- What a guarded write answers outside a run (40 R74). -/
theorem next_unlessBusy_idle {s : State} (idle : s.busy = false) (t : State) :
    (.next (s.unlessBusy t) : Result) = .next t := by
  rw [State.unlessBusy_idle s t idle]

theorem exec_cmdStart (d : Word) (s : State) :
    exec (.cmdStart d) s = .next (s.unlessBusy (s.startRun d).respondOkay) := rfl

theorem exec_wrKey (d : Word) (s : State) : exec (.wrKey d) s = .next (s.unlessBusy { s with key := d }.respondOkay) := rfl

theorem exec_wrSrcLen (d : Word) (s : State) :
    exec (.wrSrcLen d) s = .next (s.unlessBusy { s with srcLen := d }.respondOkay) := rfl

theorem exec_wrIbuf (off : Off30) (d : Word) (s : State) :
    exec (.wrIbuf off d) s = .next (s.unlessBusy { s with ibuf := s.ibuf.setWord (bufIndex off) d }.respondOkay) := rfl

theorem exec_wrCtrl (d : Word) (s : State) : exec (.wrCtrl d) s = .next { s with irqEn := ctrlIrqEn d }.respondOkay := rfl

theorem exec_cmdSoftReset (d : Word) (s : State) : exec (.cmdSoftReset d) s = .next s.softReset.respondOkay := rfl

theorem exec_rdObuf (s : State) (off : Off30) :
    exec (.rdObuf off) s = .next (s.respondBuffer (s.obufWord (bufIndex off))) := rfl

/-- With an event at the head of the agenda, `advance` takes it (log 5). -/
theorem State.advance_of_agenda_cons {s : State} {e : Event} {rest : List Event} (head : s.agenda = e :: rest) :
    s.advance = { s with agenda := rest } := by
  rw [State.advance, head, List.tail_cons]

/-- An issued code word is decoded and executed in one step (40 R73, 30 R69). -/
theorem step_of_issue {s : State} {c : CodeWord} {rest : List Event} (head : s.agenda = .issue c :: rest) :
    step s = exec (decode s.params c) s.advance := by
  rw [step, head]

end Sys2Proof.Machine
end

section
/-! The inputs of a run: what BUSY = 1 locks (40 R74, 20 R53). -/

namespace Sys2Proof.Machine

/-- An operation that leaves a run going is no guarded write and no soft reset, and nothing else writes an input of the run;
nor does any operation make IBUF unspecified anew. -/
theorem ExecEffect.runInputs_eq {s t : State} {i : Instr} (effect : ExecEffect s i t) (running : s.busy = true)
    (still : t.busy = true) : t.key = s.key ∧ t.srcLen = s.srcLen ∧ t.ibuf = s.ibuf ∧ t.resets = s.resets := by
  cases effect with
  | start _ idle | key _ idle | srcLen _ idle | ibuf _ _ idle => simp [running] at idle
  | softReset _ => simp at still
  | _ => simp

/-- The payload is a function of SRC_LEN, IBUF and the power-on contents (10 R23, R27). -/
theorem State.payload_congr {s t : State} (srcLen : t.srcLen = s.srcLen) (ibuf : t.ibuf = s.ibuf)
    (resets : t.resets = s.resets) : t.payload = s.payload := by
  have bytes : t.ibufByte = s.ibufByte := by
    funext i
    rw [State.ibufByte, State.ibufByte, ibuf, resets]
  rw [State.payload, State.payload, srcLen, bytes]

/-- The operations that a run does not lock answer OKAY (40 R74). -/
theorem exec_isOkay_of_unguarded {i : Instr} (s : State)
    (h : isHostRead i = true ∨ ∃ d, i = .wrCtrl d ∨ i = .cmdSoftReset d ∨ i = .wrStatus d) :
    ∃ t, exec i s = .next t ∧ t.resp.isOkay = true := by
  rcases h with read | ⟨d, rfl | rfl | rfl⟩
  · obtain ⟨w, heq | heq⟩ := exec_of_isHostRead s read
    · exact ⟨_, heq, rfl⟩
    · exact ⟨_, heq, rfl⟩
  · exact ⟨_, exec_wrCtrl d s, rfl⟩
  · exact ⟨_, exec_cmdSoftReset d s, rfl⟩
  · exact ⟨_, exec_wrStatus d s, rfl⟩

/-- Settles O12: the four guarded writes are refused, the rest answer OKAY, and no effect that leaves BUSY at 1 writes an
input. -/
theorem busyGuardsTheRunInputs : Obligations.BusyGuardsTheRunInputs := by
  intro s running
  refine ⟨fun d off => ⟨?_, ?_, ?_, ?_⟩, fun i h => exec_isOkay_of_unguarded s h, fun i t h still => ?_⟩
  · rw [exec_cmdStart, next_unlessBusy_running running]
  · rw [exec_wrKey, next_unlessBusy_running running]
  · rw [exec_wrSrcLen, next_unlessBusy_running running]
  · rw [exec_wrIbuf, next_unlessBusy_running running]
  · obtain ⟨key, srcLen, ibuf, -⟩ := (exec_effect h).runInputs_eq running still
    exact ⟨key, srcLen, ibuf⟩

/-- Settles O31: the completion step and hardware reset end the run, so a step that leaves it going is an issued operation,
and that keeps the run's inputs. -/
theorem runInputsAreLocked : Obligations.RunInputsAreLocked := by
  intro s t h running still
  cases step_effect h with
  | idle notBusy => simp [running] at notBusy
  | completed _ => simp at still
  | hardReset _ => simp at still
  | issued _ effect =>
    obtain ⟨key, srcLen, ibuf, resets⟩ := effect.runInputs_eq running still
    exact ⟨key, srcLen, ibuf, State.payload_congr srcLen ibuf resets⟩

end Sys2Proof.Machine
end

section
/-! What the CSRs read (40 R75): the fields of CTRL and STATUS do not overlap, so each word is the sum of its fields. -/

namespace Sys2Proof.Machine

/-- A field above a word's bits adds its value at its position. -/
theorem toNat_or_shiftLeft {w v : Word} {pos : Nat} (below : w.toNat < 2 ^ pos) (fits : 2 ^ pos * v.toNat < 2 ^ 32) :
    (w ||| v <<< pos).toNat = w.toNat + 2 ^ pos * v.toNat := by
  rw [BitVec.toNat_or, BitVec.toNat_shiftLeft, Nat.shiftLeft_eq, Nat.mul_comm, Nat.mod_eq_of_lt fits, Nat.or_comm,
    ← Nat.two_pow_add_eq_or_of_lt below, Nat.add_comm]

theorem toNat_ofNat_bool (b : Bool) : (BitVec.ofNat 32 b.toNat).toNat = b.toNat := by cases b <;> rfl

/-- A flag above a word's bits adds its weight (10 R21). -/
theorem toNat_or_bitAt {w : Word} (b : Bool) {pos : Nat} (below : w.toNat < 2 ^ pos) (hpos : pos < 32) :
    (w ||| bitAt b pos).toNat = w.toNat + 2 ^ pos * b.toNat := by
  have fits : 2 ^ pos * (BitVec.ofNat 32 b.toNat).toNat < 2 ^ 32 :=
    calc 2 ^ pos * (BitVec.ofNat 32 b.toNat).toNat
        ≤ 2 ^ pos * 1 := Nat.mul_le_mul_left _ (by rw [toNat_ofNat_bool]; exact Bool.toNat_le b)
      _ < 2 ^ 32 := by rw [Nat.mul_one]; exact Nat.pow_lt_pow_right (by decide) hpos
  rw [bitAt, toNat_or_shiftLeft below fits, toNat_ofNat_bool]

theorem toNat_bitAt (b : Bool) {pos : Nat} (hpos : pos < 32) : (bitAt b pos).toNat = 2 ^ pos * b.toNat := by
  simpa using toNat_or_bitAt (w := 0#32) b (Nat.two_pow_pos pos) hpos

theorem State.ctrlWord_toNat (s : State) : s.ctrlWord.toNat = 4 * s.irqEn.toNat := toNat_bitAt s.irqEn (by decide)

/-- STATUS field by field, from bit 0 up: below each field the word so far is smaller than the field's weight. -/
theorem State.statusWord_toNat (s : State) :
    s.statusWord.toNat = s.busy.toNat + 2 * s.done.toNat + 4 * s.error.toNat + 8 * s.accErr.toNat + 16 * s.clamp.toNat +
      256 * s.errCode.toNat := by
  have hbusy := Bool.toNat_le s.busy
  have hdone := Bool.toNat_le s.done
  have herror := Bool.toNat_le s.error
  have haccErr := Bool.toNat_le s.accErr
  have hclamp := Bool.toNat_le s.clamp
  have hcode : (s.errCode.setWidth 32).toNat = s.errCode.toNat := BitVec.toNat_setWidth_of_le (by decide)
  have busy := toNat_bitAt s.busy (pos := 0) (by decide)
  have done := toNat_or_bitAt (w := bitAt s.busy 0) s.done (pos := 1) (by omega) (by decide)
  have error := toNat_or_bitAt s.error (pos := 2) (by rw [done]; omega) (by decide)
  have accErr := toNat_or_bitAt s.accErr (pos := 3) (by rw [error]; omega) (by decide)
  have clamp := toNat_or_bitAt s.clamp (pos := 4) (by rw [accErr]; omega) (by decide)
  have errCode := toNat_or_shiftLeft (v := s.errCode.setWidth 32) (pos := 8) (by rw [clamp]; omega)
    (by rw [hcode]; omega)
  rw [State.statusWord]
  omega

/-- CTRL reads 0 where the interrupt is not enabled (10 R20). -/
theorem State.ctrlWord_eq_zero {s : State} (irqEn : s.irqEn = false) : s.ctrlWord = 0#32 := by
  apply BitVec.eq_of_toNat_eq
  simp [State.ctrlWord_toNat, irqEn]

/-- STATUS reads 0 where every flag and ERRCODE are 0 (10 R21). -/
theorem State.statusWord_eq_zero {s : State} (busy : s.busy = false) (done : s.done = false) (error : s.error = false)
    (accErr : s.accErr = false) (clamp : s.clamp = false) (errCode : s.errCode = 0#4) : s.statusWord = 0#32 := by
  apply BitVec.eq_of_toNat_eq
  simp [State.statusWord_toNat, busy, done, error, accErr, clamp, errCode]

/-- Settles O13: each read answers its register's word, and the words of CTRL and STATUS are the sums of their fields. -/
theorem csrReadsReturnRegisters : Obligations.CsrReadsReturnRegisters := by
  intro s
  exact ⟨s.ctrlWord, s.statusWord, s.ctrlWord_toNat, s.statusWord_toNat, rfl, rfl, rfl, rfl, rfl, rfl, rfl, rfl, rfl⟩

end Sys2Proof.Machine
end

section
/-! The bytes that the buffer accesses write and read (40 R83 to R85). -/

namespace Sys2Proof.Machine

/-- Settles O19: the write is performed outside a run, where a word write sets its four bytes alone, and refused during
one. -/
theorem wrIbufStoresItsFourBytes : Obligations.WrIbufStoresItsFourBytes := by
  intro s off d hwf
  have rising := ((Memory.wf_iff _ _).1 hwf).1
  refine ⟨fun idle => ⟨_, exec_wrIbuf_idle idle off d, rfl, fun i hi => ?_, fun a outside => ?_⟩, fun running => ?_⟩
  · rw [State.respondOkay_ibuf, Memory.byteAt_setWord _ rising, bufIndex, if_pos (by omega),
      Nat.add_sub_cancel_left, laneOf]
  · rw [State.respondOkay_ibuf, Memory.byteAt_setWord _ rising, bufIndex, if_neg outside]
  · rw [exec_wrIbuf, next_unlessBusy_running running]

/-- Each lane of a word read from IBUF is the byte that the port shows there (20 R42, R46). -/
theorem State.laneOf_ibufWord (s : State) (off : Nat) {i : Nat} (hi : i < 4) :
    laneOf (s.ibufWord off) i = s.ibufLane off i := laneOf_wordOfLanes (s.ibufLane off) i hi

/-- Each lane of a word read from OBUF is the byte that the port shows there (20 R42, R46). -/
theorem State.laneOf_obufWord (s : State) (off : Nat) {i : Nat} (hi : i < 4) :
    laneOf (s.obufWord off) i = s.obufLane off i := laneOf_wordOfLanes (s.obufLane off) i hi

/-- Where the gate of 20 R47 is open, a specified byte of OBUF is what its lane shows. -/
theorem State.obufLane_of_byteAt {s : State} {off i : Nat} {b : Byte} (done : s.done = true)
    (below : off + i < s.outLen.toNat) (h : s.obuf.byteAt (off + i) = some b) : s.obufLane off i = b := by
  simp [State.obufLane, done, below, Memory.byteOr, h]

/-- Settles O20: a lane whose byte has been written shows that byte. -/
theorem rdIbufReturnsWrittenBytes : Obligations.RdIbufReturnsWrittenBytes := by
  intro s off
  refine ⟨_, _, exec_rdIbuf s off, rfl, fun i b hi written => ?_⟩
  calc laneOf (s.ibufWord (bufIndex off)) i
      = s.ibufLane (bufIndex off) i := s.laneOf_ibufWord _ hi
    _ = b := State.ibufLane_of_byteAt written

/-- Settles O21: a lane below OUT_LEN shows its container byte when DONE = 1. -/
theorem rdObufReturnsContainerBytes : Obligations.RdObufReturnsContainerBytes := by
  intro s off
  refine ⟨_, _, exec_rdObuf s off, rfl, fun i b hi done below specified => ?_⟩
  calc laneOf (s.obufWord (bufIndex off)) i
      = s.obufLane (bufIndex off) i := s.laneOf_obufWord _ hi
    _ = b := State.obufLane_of_byteAt done below specified

end Sys2Proof.Machine
end

section
/-! The issued access, and the writes and commands one by one (40 R73, R76 to R79, R81, R82, R86). -/

namespace Sys2Proof.Machine

/-- Settles O5: the step executes the head of the agenda on the state without it. -/
theorem issuedWordRunsItsInstruction : Obligations.IssuedWordRunsItsInstruction := by
  intro s c rest head
  rw [step_of_issue head, State.advance_of_agenda_cons head]

/-- Settles O9: each of the six raises RO_WRITE, and an AccessError changes ACCERR alone. -/
theorem readOnlyWritesAreRefused : Obligations.ReadOnlyWritesAreRefused := by
  intro s d off
  have refused := next_accessError s .roWrite
  exact ⟨refused, refused, refused, refused, refused, refused⟩

/-- Settles O14: WR_CTRL writes IRQ_EN alone, so the line follows the new enable and the DONE and ERROR of before. -/
theorem wrCtrlSetsInterruptEnable : Obligations.WrCtrlSetsInterruptEnable := by
  intro s d
  exact ⟨_, exec_wrCtrl d s, rfl, rfl⟩

/-- Settles O15: a START passes the BUSY guard exactly outside a run. -/
theorem startIsAcceptedWhenIdle : Obligations.StartIsAcceptedWhenIdle := by
  intro s d
  refine ⟨fun idle => ?_, fun running => ?_⟩
  · rw [exec_cmdStart, next_unlessBusy_idle idle]
    rfl
  · rw [exec_cmdStart, next_unlessBusy_running running]

/-- Settles O18: both writes pass the BUSY guard exactly outside a run, and there is no other check. -/
theorem keyAndSrcLenAreWritable : Obligations.KeyAndSrcLenAreWritable := by
  intro s d
  refine ⟨fun idle => ⟨?_, ?_⟩, fun running => ⟨?_, ?_⟩⟩
  · rw [exec_wrKey, next_unlessBusy_idle idle]
    rfl
  · rw [exec_wrSrcLen, next_unlessBusy_idle idle]
    rfl
  · rw [exec_wrKey, next_unlessBusy_running running]
  · rw [exec_wrSrcLen, next_unlessBusy_running running]

/-- Settles O16: SoftReset writes each CSR field whatever the state and the data, and unlists OBUF. -/
theorem softResetClearsCsrsAndKeepsIbuf : Obligations.SoftResetClearsCsrsAndKeepsIbuf := by
  intro s d
  refine ⟨_, exec_cmdSoftReset d s, rfl, fun a => ?_, ?_, ?_, ?_⟩
  · rw [State.respondOkay_obuf, State.softReset_obuf, Memory.byteAt_nil]
  · exact State.ctrlWord_eq_zero rfl
  · exact State.statusWord_eq_zero rfl rfl rfl rfl rfl rfl
  · rw [State.irq, State.respondOkay_irqEn, State.softReset_irqEn, Bool.false_and]

end Sys2Proof.Machine
end

section
/-! The keystream unit (spec/41_keystream.md R87 to R91). -/

namespace Sys2Proof.Machine

/-- The mask by `0xFFFFFFFF` after exact arithmetic is what a 32-bit word keeps (00 R11). -/
theorem and_mask32_eq_mod (n : Nat) : n &&& 0xFFFFFFFF = n % 2 ^ 32 := Nat.and_two_pow_sub_one_eq_mod n 32

/-- `v0` of KS_ADVANCE: the wrapped product is the masked exact one (41 R87). -/
theorem ksLowProduct_toNat (s : Word) :
    (20021#32 * (s &&& 0xFFFF#32)).toNat = 20021 * (s.toNat &&& 0xFFFF) &&& 0xFFFFFFFF := by
  rw [and_mask32_eq_mod, BitVec.toNat_mul, BitVec.toNat_and]
  rfl

/-- `v1b` of KS_ADVANCE: wrapping at both products and at the sum is one mask of the exact sum (41 R87). -/
theorem ksHighSum_toNat (s : Word) :
    ((0x53440000#32 ||| (s >>> 16)) * 20021#32 + s * 346#32).toNat =
      (magic ||| s.toNat >>> 16) * 20021 + s.toNat * 346 &&& 0xFFFFFFFF := by
  rw [and_mask32_eq_mod, BitVec.toNat_add, BitVec.toNat_mul, BitVec.toNat_mul, BitVec.toNat_or,
    BitVec.toNat_ushiftRight, ← Nat.add_mod]
  rfl

/-- `v1c` of KS_ADVANCE: a mask of 16 bits does not see the carry out of a 32-bit sum (41 R87). -/
theorem add_and_mask16_toNat (a b : Word) : ((a + b) &&& 0xFFFF#32).toNat = (a.toNat + b.toNat) &&& 0xFFFF := by
  rw [BitVec.toNat_and, BitVec.toNat_add]
  change (a.toNat + b.toNat) % 2 ^ 32 &&& 2 ^ 16 - 1 = (a.toNat + b.toNat) &&& 2 ^ 16 - 1
  rw [Nat.and_two_pow_sub_one_eq_mod, Nat.and_two_pow_sub_one_eq_mod,
    Nat.mod_mod_of_dvd _ (Nat.pow_dvd_pow 2 (by decide))]

/-- The next state of KS_ADVANCE: the wrapped shift and sums are one mask of the exact value (41 R87). -/
theorem ksNext_eq_wrapping (hi lo : Word) :
    BitVec.ofNat 32 ((hi.toNat <<< 16) + (lo.toNat &&& 0xFFFF) + 1 &&& 0xFFFFFFFF) =
      (hi <<< 16) + (lo &&& 0xFFFF#32) + 1#32 := by
  apply BitVec.eq_of_toNat_eq
  rw [and_mask32_eq_mod, BitVec.toNat_ofNat, BitVec.toNat_add, BitVec.toNat_add, BitVec.toNat_shiftLeft,
    BitVec.toNat_and]
  simp only [BitVec.toNat_ofNat, Nat.reducePow, Nat.reduceMod, Nat.mod_mod, Nat.mod_add_mod]

/-- The output of KS_ADVANCE: the mask by `0xFF` is the truncation to a byte (41 R87). -/
theorem ofNat_and_mask8_eq_setWidth (w : Word) : BitVec.ofNat 8 (w.toNat &&& 0xFF) = w.setWidth 8 := by
  apply BitVec.eq_of_toNat_eq
  rw [BitVec.toNat_ofNat, BitVec.toNat_setWidth]
  change (w.toNat &&& 2 ^ 8 - 1) % 2 ^ 8 = w.toNat % 2 ^ 8
  rw [Nat.and_two_pow_sub_one_eq_mod, Nat.mod_mod]

/-- KS_ADVANCE on exact integers is the wrapping 32-bit datapath (41 R87, 00 R11). -/
theorem ksAdvance_eq_wrapping (s : Word) :
    let v0 : Word := 20021#32 * (s &&& 0xFFFF#32)
    let v1 : Word := (0x53440000#32 ||| (s >>> 16)) * 20021#32 + s * 346#32
    let v1c : Word := (v1 + (v0 >>> 16)) &&& 0xFFFF#32
    ksAdvance s magic = ((v1c <<< 16) + (v0 &&& 0xFFFF#32) + 1#32, v1c.setWidth 8) := by
  intro v0 v1 v1c
  have hv1c : v1c.toNat = (v1.toNat + v0.toNat >>> 16) &&& 0xFFFF := by
    rw [add_and_mask16_toNat, BitVec.toNat_ushiftRight]
  rw [← ksNext_eq_wrapping, ← ofNat_and_mask8_eq_setWidth, hv1c, ksHighSum_toNat, ksLowProduct_toNat]
  rfl

/-- Byte `i` of a run of keystream steps is the output of the step on the state after `i` steps (41 R89). -/
theorem ksRun_getElem? (n : Nat) (s : Word) {i : Nat} (hi : i < n) :
    (ksRun n s).2[i]? = some (ksAdvance (Nat.iterate (fun s => (ksAdvance s magic).1) i s) magic).2 := by
  induction n generalizing s i with
  | zero => exact absurd hi (Nat.not_lt_zero i)
  | succ n ih =>
    cases i with
    | zero => rfl
    | succ i => exact ih (ksAdvance s magic).1 (Nat.lt_of_succ_lt_succ hi)

/-- Settles O41: each word of the datapath wraps to the masked exact value, and the bytes follow the loop's recursion. -/
theorem keystreamStepIsWrappingDatapath : Obligations.KeystreamStepIsWrappingDatapath :=
  ⟨ksAdvance_eq_wrapping, fun k => ⟨ksSeq_length k, fun _ hi => ksRun_getElem? ksSteps k hi⟩⟩

/-- Decrypting with the bytes that encrypted gives back every depth that has a keystream byte (41 R90, R91). -/
theorem ksDecrypt_ksEncrypt {depth ks : List Byte} (covered : depth.length ≤ ks.length) :
    ksDecrypt (ksEncrypt depth ks) ks = depth := by
  induction depth generalizing ks with
  | nil => rfl
  | cons d depth ih =>
    cases ks with
    | nil => exact absurd covered (Nat.not_succ_le_zero _)
    | cons b ks =>
      calc ksDecrypt (ksEncrypt (d :: depth) (b :: ks)) (b :: ks)
          = (d + b - b) :: ksDecrypt (ksEncrypt depth ks) ks := rfl
        _ = d :: depth := by rw [BitVec.add_sub_cancel, ih (Nat.le_of_succ_le_succ covered)]

/-- Settles O42: the key's keystream has a byte for each of the 512 depths. -/
theorem keystreamRecoversDepths : Obligations.KeystreamRecoversDepths := by
  intro depth k hlen
  exact ksDecrypt_ksEncrypt (by rw [hlen, ksSeq_length]; rfl)

end Sys2Proof.Machine
end

section
/-! MATCH_LEN is the longest run of equal bytes (42 R92). -/

namespace Sys2Proof.Machine

/-- The bytes before the end of the run are equal (42 R92). -/
theorem getElem?_eq_of_lt_equalRun {p : List Byte} {lim a b j : Nat} (hj : j < equalRun p lim a b) :
    p[a + j]? = p[b + j]? := by
  induction lim generalizing a b j with
  | zero => exact absurd hj (Nat.not_lt_zero j)
  | succ lim ih =>
    unfold equalRun at hj
    split at hj
    case isTrue first =>
      cases j with
      | zero => exact first
      | succ j =>
        have rest := ih (Nat.lt_of_succ_lt_succ hj)
        rwa [Nat.add_right_comm a, Nat.add_right_comm b] at rest
    case isFalse => exact absurd hj (Nat.not_lt_zero j)

/-- A run that ends before its limit ends at two bytes that differ (42 R92). -/
theorem getElem?_ne_at_equalRun {p : List Byte} {lim a b : Nat} (h : equalRun p lim a b < lim) :
    p[a + equalRun p lim a b]? ≠ p[b + equalRun p lim a b]? := by
  induction lim generalizing a b with
  | zero => exact absurd h (Nat.not_lt_zero _)
  | succ lim ih =>
    unfold equalRun at h ⊢
    split at h
    case isTrue first =>
      have rest := ih (Nat.lt_of_succ_lt_succ h)
      rw [if_pos first]
      rwa [Nat.add_right_comm a, Nat.add_right_comm b] at rest
    case isFalse first => rwa [if_neg first]

/-- A match stays within `MAX_MATCH` and the payload (42 R92). -/
theorem matchLen_le (p : List Byte) (pos off : Nat) : matchLen p pos off ≤ min 257 (p.length - pos) :=
  equalRun_le p _ _ _

/-- The bytes of a match are those `off` places before them (42 R92). -/
theorem getElem?_eq_of_lt_matchLen {p : List Byte} {pos off j : Nat} (hj : j < matchLen p pos off) :
    p[pos + j]? = p[pos - off + j]? := getElem?_eq_of_lt_equalRun hj

/-- Settles O43: the loop goes on exactly while the bytes agree and the limit is not reached. -/
theorem matchLengthIsLongestRun : Obligations.MatchLengthIsLongestRun := by
  intro p pos off _ _ _
  exact ⟨matchLen_le p pos off, fun _ => getElem?_eq_of_lt_matchLen, getElem?_ne_at_equalRun⟩

end Sys2Proof.Machine
end

section
/-! BEST is the longest match in the window, at the largest offset that reaches it (42 R93 to R95). -/

namespace Sys2Proof.Machine

/-- The candidates are the offsets of the window (42 R93). -/
theorem mem_candidates {pos off : Nat} : off ∈ candidates pos ↔ 2 ≤ off ∧ off ≤ min pos 4097 := by
  have window : min pos maxOffset = min pos 4097 := rfl
  rw [candidates, List.mem_map, window]
  constructor
  · rintro ⟨i, hi, rfl⟩
    have := List.mem_range.mp hi
    omega
  · rintro ⟨lower, upper⟩
    exact ⟨min pos 4097 - off, List.mem_range.mpr (by omega), by omega⟩

/-- The candidates are scanned in descending order (42 R93). -/
theorem candidates_descending (pos : Nat) : (candidates pos).Pairwise (· > ·) := by
  rw [candidates, List.pairwise_map]
  refine List.pairwise_lt_range.imp_of_mem fun {i j} _ hj hij => ?_
  have := List.mem_range.mp hj
  omega

/-- What the scan of BEST knows after the offsets `offs`: a length that none of them exceeds and, unless it is 0, the
largest of them that reaches it (42 R95). -/
structure IsBest (p : List Byte) (pos : Nat) (offs : List Nat) (b : Nat × Option Nat) : Prop where
  upper : ∀ off ∈ offs, matchLen p pos off ≤ b.1
  attained : 0 < b.1 → ∃ off ∈ offs, b.2 = some off ∧ matchLen p pos off = b.1 ∧
    ∀ off' ∈ offs, matchLen p pos off' = b.1 → off' ≤ off

/-- A step of the scan keeps what it knows, since the next offset is smaller than those before it (42 R94). -/
theorem IsBest.step {p : List Byte} {pos off : Nat} {offs : List Nat} {b : Nat × Option Nat}
    (h : IsBest p pos offs b) (smaller : ∀ seen ∈ offs, off < seen) :
    IsBest p pos (offs ++ [off]) (bestStep p pos b off) := by
  unfold bestStep
  split
  case isTrue longer =>
    refine ⟨fun o ho => ?_, fun _ => ⟨off, by simp, rfl, rfl, fun o ho reaches => ?_⟩⟩
    · rcases List.mem_append.mp ho with seen | last
      · exact (h.upper o seen).trans longer.le
      · rw [List.mem_singleton.mp last]
    · rcases List.mem_append.mp ho with seen | last
      · exact absurd reaches ((h.upper o seen).trans_lt longer).ne
      · rw [List.mem_singleton.mp last]
  case isFalse notLonger =>
    refine ⟨fun o ho => ?_, fun positive => ?_⟩
    · rcases List.mem_append.mp ho with seen | last
      · exact h.upper o seen
      · rw [List.mem_singleton.mp last]
        exact Nat.le_of_not_lt notLonger
    · obtain ⟨found, hfound, heq, reaches, largest⟩ := h.attained positive
      refine ⟨found, List.mem_append_left _ hfound, heq, reaches, fun o ho => ?_⟩
      rcases List.mem_append.mp ho with seen | last
      · exact largest o seen
      · rw [List.mem_singleton.mp last]
        exact fun _ => (smaller found hfound).le

/-- A scan of descending offsets finds the best of them (42 R94, R95). -/
theorem isBest_foldl {p : List Byte} {pos : Nat} {offs : List Nat} (desc : offs.Pairwise (· > ·)) :
    IsBest p pos offs (offs.foldl (bestStep p pos) (0, none)) := by
  induction offs using List.reverseRecOn with
  | nil => exact ⟨by simp, by simp⟩
  | append_singleton offs off ih =>
    obtain ⟨descInit, _, above⟩ := List.pairwise_append.mp desc
    rw [List.foldl_append]
    exact (ih descInit).step fun seen hseen => above seen hseen off (List.mem_singleton_self off)

theorem isBest_best (p : List Byte) (pos : Nat) : IsBest p pos (candidates pos) (best p pos) :=
  isBest_foldl (candidates_descending pos)

/-- Settles O44: the scan goes through the whole window in descending order. -/
theorem bestIsLargestOffsetOfLongestMatch : Obligations.BestIsLargestOffsetOfLongestMatch := by
  intro p pos
  have isBest := isBest_best p pos
  refine ⟨fun off lower upper => isBest.upper off (mem_candidates.mpr ⟨lower, upper⟩), fun long => ?_⟩
  obtain ⟨off, hoff, heq, reaches, largest⟩ := isBest.attained (by omega)
  obtain ⟨lower, upper⟩ := mem_candidates.mp hoff
  exact ⟨off, heq, lower, upper, reaches, fun o ho ho' => largest o (mem_candidates.mpr ⟨ho, ho'⟩)⟩

end Sys2Proof.Machine
end

section
/-! The record that EMIT makes at a position (42 R96). -/

namespace Sys2Proof.Machine

/-- What a backreference of length `len` and offset `off` at `q` says: both are in range, and its bytes stand in the
payload and equal those `off` places before them (42 R99). -/
structure IsCopy (p : List Byte) (q len off : Nat) : Prop where
  three_le_len : 3 ≤ len
  len_le : len ≤ 257
  two_le_off : 2 ≤ off
  off_le : off ≤ min q 4097
  fits : q + len ≤ p.length
  copies : ∀ j, j < len → p[q + j]? = p[q - off + j]?

/-- A best match of at least three bytes has an offset, and copies its bytes from there (42 R94). -/
theorem exists_isCopy_of_best {p : List Byte} {q : Nat} (long : 3 ≤ (best p q).1) :
    ∃ off, (best p q).2 = some off ∧ IsCopy p q (best p q).1 off := by
  obtain ⟨off, hoff, heq, reaches, _⟩ := (isBest_best p q).attained (by omega)
  obtain ⟨lower, upper⟩ := mem_candidates.mp hoff
  have bound := matchLen_le p q off
  rw [reaches] at bound
  exact ⟨off, heq, long, by omega, lower, upper, by omega,
    fun _ hj => getElem?_eq_of_lt_matchLen (by rwa [reaches])⟩

/-- The records that the greedy parse may put at `q`, one per branch of EMIT (42 R96). -/
inductive RecordAt (p : List Byte) (q : Nat) : Match → Prop where
  | lit (v : Byte) (short : (best p q).1 < 3) (byte : p[q]? = some v) : RecordAt p q (.lit v)
  | ref (v : Byte) (f : Off12) (long : 3 ≤ (best p q).1) (len : v.toNat + 2 = (best p q).1)
      (off : (best p q).2 = some (f.toNat + 2)) : RecordAt p q (.ref v f)

/-- The fields of a backreference hold every length and offset of the window (30 R58, R60). -/
theorem exists_mkRef_fields {len off : Nat} (hlen : 2 ≤ len) (hlen' : len ≤ 257) (hoff : 2 ≤ off) (hoff' : off ≤ 4097) :
    ∃ v f, Match.mkRef len off = .ref v f ∧ v.toNat + 2 = len ∧ f.toNat + 2 = off := by
  refine ⟨_, _, rfl, ?_, ?_⟩
  · rw [BitVec.toNat_ofNat]
    omega
  · rw [BitVec.toNat_ofNat, minOffset]
    omega

theorem emit_of_short {p : List Byte} {q : Nat} {b : Nat × Option Nat} (short : b.1 < 3) :
    emit p q b = (.lit (p.getD q 0#8), 1) := by
  have notLong : ¬ minMatch ≤ b.1 := Nat.not_le.mpr short
  unfold emit
  split
  · rw [if_neg notLong]
  · rfl

theorem emit_of_long {p : List Byte} {q off : Nat} {b : Nat × Option Nat} (long : 3 ≤ b.1) (found : b.2 = some off) :
    emit p q b = (.mkRef b.1 off, b.1) := by
  have long' : minMatch ≤ b.1 := long
  rw [emit, found]
  exact if_pos long'

/-- EMIT makes the record of its position and advances by the record's length (42 R96, R97). -/
theorem exists_recordAt_emit {p : List Byte} {q : Nat} (hq : q < p.length) :
    ∃ m, RecordAt p q m ∧ emit p q (best p q) = (m, m.len) := by
  rcases Nat.lt_or_ge (best p q).1 3 with short | long
  · refine ⟨.lit p[q], .lit _ short (List.getElem?_eq_getElem hq), ?_⟩
    rw [emit_of_short short, List.getD_eq_getElem _ _ hq, Match.len]
  · obtain ⟨off, found, copy⟩ := exists_isCopy_of_best long
    have hoff := copy.off_le
    obtain ⟨v, f, hmk, hlen, rfl⟩ :=
      exists_mkRef_fields (by omega) copy.len_le copy.two_le_off (hoff.trans (Nat.min_le_right _ _))
    refine ⟨.ref v f, .ref v f long hlen found, ?_⟩
    rw [emit_of_long long found, hmk, Match.len, hlen]

/-- A record covers at least one byte (42 R99). -/
theorem Match.one_le_len (m : Match) : 1 ≤ m.len := by
  cases m with
  | lit v => exact Nat.le_refl 1
  | ref v f => exact Nat.succ_le_succ (Nat.zero_le _)

namespace RecordAt

variable {p : List Byte} {q : Nat}

theorem lit_byte {v : Byte} (h : RecordAt p q (.lit v)) : p[q]? = some v := by
  cases h with
  | lit _ _ byte => exact byte

theorem ref_isCopy {v : Byte} {f : Off12} (h : RecordAt p q (.ref v f)) :
    IsCopy p q (v.toNat + 2) (f.toNat + 2) := by
  cases h with
  | ref _ _ long len off =>
    obtain ⟨off', found, copy⟩ := exists_isCopy_of_best long
    rw [len, Option.some.inj (off.symm.trans found)]
    exact copy

/-- A record covers at most `MAX_MATCH` bytes (42 R99). -/
theorem len_le {m : Match} (h : RecordAt p q m) : m.len ≤ 257 := by
  cases m with
  | lit v => exact Nat.le_add_left 1 256
  | ref v f => exact h.ref_isCopy.len_le

/-- A record covers bytes of the payload alone (42 R99). -/
theorem add_len_le {m : Match} (h : RecordAt p q m) : q + m.len ≤ p.length := by
  cases m with
  | lit v => exact (List.getElem?_eq_some_iff.mp h.lit_byte).1
  | ref v f => exact h.ref_isCopy.fits

/-- Where the window or the rest of the payload is too small for a backreference the record is a literal: its offset is
at least 2, and its length at least 3 (42 R93, R96). -/
theorem exists_lit {m : Match} (h : RecordAt p q m) (small : q < 2 ∨ p.length < q + 3) : ∃ v, m = .lit v := by
  cases m with
  | lit v => exact ⟨v, rfl⟩
  | ref v f =>
    obtain ⟨hlen, -, hoff, hoff', fits, -⟩ := h.ref_isCopy
    omega

end RecordAt

end Sys2Proof.Machine
end

section
/-! The greedy parse as a chain of records from a position to the end of the payload (42 R97, R99). -/

namespace Sys2Proof.Machine

/-- There are no more records than bytes that they cover (42 R99). -/
theorem length_le_sum_len (s : List Match) : s.length ≤ (s.map Match.len).sum := by
  induction s with
  | nil => exact Nat.le_refl 0
  | cons m s ih =>
    rw [List.length_cons, List.map_cons, List.sum_cons, Nat.add_comm]
    exact Nat.add_le_add m.one_le_len ih

/-- The records `s` cover the payload from `q` to its end, each the record of the position where it starts. -/
inductive ParsesFrom (p : List Byte) : Nat → List Match → Prop where
  | nil : ParsesFrom p p.length []
  | cons {q : Nat} {m : Match} {s : List Match} (head : RecordAt p q m) (tail : ParsesFrom p (q + m.len) s) :
      ParsesFrom p q (m :: s)

/-- The loop of FIND_MATCHES reaches the end of the payload if its fuel is as long as what is left of it (42 R97). -/
theorem parsesFrom_parseFrom {p : List Byte} {fuel q : Nat} (hq : q ≤ p.length) (enough : p.length ≤ q + fuel) :
    ParsesFrom p q (parseFrom p fuel q) := by
  induction fuel generalizing q with
  | zero =>
    obtain rfl : q = p.length := Nat.le_antisymm hq enough
    exact .nil
  | succ fuel ih =>
    unfold parseFrom
    split
    case isTrue inside =>
      obtain ⟨m, record, heq⟩ := exists_recordAt_emit inside
      have advance := m.one_le_len
      have enough' : p.length ≤ q + m.len + fuel := by omega
      rw [heq]
      exact .cons record (ih record.add_len_le enough')
    case isFalse atEnd =>
      obtain rfl : q = p.length := Nat.le_antisymm hq (Nat.le_of_not_lt atEnd)
      exact .nil

theorem parsesFrom_findMatches (p : List Byte) : ParsesFrom p 0 (findMatches p) :=
  parsesFrom_parseFrom (Nat.zero_le _) (Nat.le_add_left _ _)

namespace ParsesFrom

variable {p : List Byte} {q : Nat} {s : List Match}

/-- The covered lengths lead to the end of the payload. -/
theorem add_sum_len (h : ParsesFrom p q s) : q + (s.map Match.len).sum = p.length := by
  induction h with
  | nil => rfl
  | cons _ _ ih => rwa [List.map_cons, List.sum_cons, ← Nat.add_assoc]

/-- Each record covers at most 257 bytes. -/
theorem sum_len_le (h : ParsesFrom p q s) : (s.map Match.len).sum ≤ 257 * s.length := by
  induction h with
  | nil => exact Nat.le_refl 0
  | cons head _ ih =>
    have := head.len_le
    rw [List.length_cons, List.map_cons, List.sum_cons]
    omega

/-- A record starts where the lengths of those before it lead. -/
theorem recordAt {pre post : List Match} {m : Match} (h : ParsesFrom p q (pre ++ m :: post)) :
    RecordAt p (q + (pre.map Match.len).sum) m := by
  induction pre generalizing q with
  | nil =>
    cases h with
    | cons head _ => exact head
  | cons x pre ih =>
    cases h with
    | cons _ tail =>
      rw [List.map_cons, List.sum_cons, ← Nat.add_assoc]
      exact ih tail

/-- The records at the positions 0 and 1 are literals (42 R97): there is no offset of at least 2 there. -/
theorem exists_lit_getElem? {i : Nat} (h : ParsesFrom p q s) (inside : q + i < min p.length 2) :
    ∃ v, s[i]? = some (.lit v) := by
  induction i generalizing q s with
  | zero =>
    cases h with
    | nil => omega
    | cons head _ =>
      obtain ⟨v, rfl⟩ := head.exists_lit (.inl (by omega))
      exact ⟨v, rfl⟩
  | succ i ih =>
    cases h with
    | nil => omega
    | cons head tail =>
      obtain ⟨v, rfl⟩ := head.exists_lit (.inl (by omega))
      exact ih tail (by rw [Match.len]; omega)

end ParsesFrom

theorem recordAt_of_findMatches {p : List Byte} {pre post : List Match} {m : Match}
    (h : findMatches p = pre ++ m :: post) : RecordAt p (pre.map Match.len).sum m := by
  have record := (h ▸ parsesFrom_findMatches p).recordAt
  rwa [Nat.zero_add] at record

/-- Settles O60: the two kinds of record are the two branches of EMIT. -/
theorem recordsFollowBest : Obligations.RecordsFollowBest := by
  intro p pre post m h q
  cases recordAt_of_findMatches h with
  | lit v short byte => exact ⟨fun long => absurd long (Nat.not_le.mpr short), fun _ => ⟨v, rfl, byte⟩⟩
  | ref v f long len off => exact ⟨fun _ => ⟨v, f, rfl, len, off⟩, fun short => absurd long (Nat.not_le.mpr short)⟩

/-- Settles O46: a backreference starts at 2 or later and covers at least three bytes, so it ends at 5 or later. -/
theorem shortPayloadsAreLiterals : Obligations.ShortPayloadsAreLiterals := by
  intro p
  refine ⟨fun i hi => (parsesFrom_findMatches p).exists_lit_getElem? (by rwa [Nat.zero_add]), fun short m hm => ?_⟩
  obtain ⟨pre, post, heq⟩ := List.append_of_mem hm
  exact (recordAt_of_findMatches heq).exists_lit (by omega)

end Sys2Proof.Machine
end

section
/-! Replaying the parse gives the payload back (42 R99). -/

namespace Sys2Proof.Machine

/-- Copying a byte that equals the next one of the payload extends the replayed part by it (46 R137). -/
theorem copyByte_take {p : List Byte} {q off : Nat} (hq : q < p.length) (hoff : 1 ≤ off) (hoff' : off ≤ q)
    (equal : p[q]? = p[q - off]?) : copyByte off (p.take q) = some (p.take (q + 1)) := by
  have hlen : (p.take q).length = q := List.length_take_of_le hq.le
  have source : (p.take q)[q - off]? = some p[q] := by
    rw [List.getElem?_take_of_lt (by omega), ← equal, List.getElem?_eq_getElem hq]
  rw [copyByte, hlen, if_pos hoff', source, Option.map_some, List.take_append_getElem hq]

/-- Copying byte by byte extends the replayed part by the whole match, also where the match overlaps what it produces
(42 R98). -/
theorem copyBytes_take {p : List Byte} {q off n : Nat} (fits : q + n ≤ p.length) (hoff : 1 ≤ off) (hoff' : off ≤ q)
    (equal : ∀ j, j < n → p[q + j]? = p[q - off + j]?) :
    copyBytes off n (p.take q) = some (p.take (q + n)) := by
  induction n generalizing q with
  | zero => rfl
  | succ n ih =>
    have equalTail : ∀ j, j < n → p[q + 1 + j]? = p[q + 1 - off + j]? := fun j hj => by
      have := equal (j + 1) (Nat.succ_lt_succ hj)
      rwa [show q + (j + 1) = q + 1 + j by omega, show q - off + (j + 1) = q + 1 - off + j by omega] at this
    rw [copyBytes, copyByte_take (by omega) hoff hoff' (equal 0 n.succ_pos), Option.bind_some,
      ih (by omega) (by omega) equalTail, Nat.add_right_comm, Nat.add_assoc]

/-- The record of a position extends the replayed part by the bytes it covers (42 R99). -/
theorem RecordAt.replayRecord_take {p : List Byte} {q : Nat} {m : Match} (h : RecordAt p q m) :
    replayRecord (p.take q) m = some (p.take (q + m.len)) := by
  cases m with
  | lit v =>
    obtain ⟨hq, rfl⟩ := List.getElem?_eq_some_iff.mp h.lit_byte
    rw [replayRecord, List.take_append_getElem hq, Match.len]
  | ref v f =>
    have copy := h.ref_isCopy
    exact copyBytes_take copy.fits (Nat.le_of_succ_le copy.two_le_off)
      (copy.off_le.trans (Nat.min_le_left _ _)) copy.copies

/-- Replaying the records from a position completes the payload (42 R99). -/
theorem ParsesFrom.replayFrom_take {p : List Byte} {q : Nat} {s : List Match} (h : ParsesFrom p q s) :
    replayFrom (p.take q) s = some p := by
  induction h with
  | nil => rw [replayFrom, List.take_length]
  | cons head _ ih => rw [replayFrom, head.replayRecord_take, Option.bind_some, ih]

/-- Settles O45, by induction over the chain of records that is the parse. -/
theorem parseIsValid : Obligations.ParseIsValid := by
  intro p
  have parses := parsesFrom_findMatches p
  have covers : ((findMatches p).map Match.len).sum = p.length := by
    rw [← parses.add_sum_len, Nat.zero_add]
  have atMost := length_le_sum_len (findMatches p)
  have atLeast := parses.sum_len_le
  rw [covers] at atMost atLeast
  refine ⟨covers, fun _ _ _ h => (recordAt_of_findMatches h).lit_byte, fun _ _ _ _ h => ?_, atMost, ?_,
    parses.replayFrom_take⟩
  · have copy := (recordAt_of_findMatches h).ref_isCopy
    exact ⟨copy.three_le_len, copy.len_le, copy.two_le_off, copy.off_le, copy.copies⟩
  · rw [ceilDiv]
    omega

end Sys2Proof.Machine
end

section
/-! COUNT: each record adds one to one counter (43 R101). -/

namespace Sys2Proof.Machine

/-- Settles O48: the counters count each record's symbol once, and every symbol has a counter. -/
theorem countsAddUpToRecords : Obligations.CountsAddUpToRecords := by
  intro s
  have inAlphabet : ∀ i, i ∈ (s.map fun m => m.sym.toNat : Multiset Nat) → i ∈ Finset.range alphabet := by
    intro i hi
    obtain ⟨m, -, rfl⟩ := List.mem_map.mp (Multiset.mem_coe.mp hi)
    exact Finset.mem_range.mpr m.sym.isLt
  have counter : ∀ i, s.countP (fun m => m.sym.toNat == i) = (s.map fun m => m.sym.toNat : Multiset Nat).count i := by
    intro i
    rw [Multiset.coe_count, List.count, List.countP_map]
    rfl
  calc (count s).sum
      = ∑ i ∈ Finset.range alphabet, (s.map fun m => m.sym.toNat : Multiset Nat).count i := by
        simp only [count, counter]
        rfl
    _ = s.length := by rw [Multiset.sum_count_eq_card inAlphabet, Multiset.coe_card, List.length_map]

end Sys2Proof.Machine
end

section
/-! One merge: the two nodes that come first leave the set, and their parent joins it (43 R103, R104). -/

namespace Sys2Proof.Machine

theorem Node.precedes_iff {a b : Node} :
    a.precedes b = true ↔ a.freq < b.freq ∨ (a.freq = b.freq ∧ a.id < b.id) := by
  simp [Node.precedes]

theorem Node.not_precedes_iff {a b : Node} :
    a.precedes b = false ↔ b.freq < a.freq ∨ (b.freq = a.freq ∧ b.id ≤ a.id) := by
  rw [← Bool.not_eq_true, Node.precedes_iff]
  omega

/-- A node that does not precede has at least the frequency of the other (43 R103). -/
theorem Node.freq_le_of_not_precedes {a b : Node} (h : a.precedes b = false) : b.freq ≤ a.freq := by
  rw [Node.not_precedes_iff] at h
  omega

theorem Node.not_precedes_trans {a b c : Node} (hab : a.precedes b = false) (hbc : b.precedes c = false) :
    a.precedes c = false := by
  rw [Node.not_precedes_iff] at *
  omega

theorem Node.not_precedes_of_precedes {a b : Node} (h : a.precedes b = true) : b.precedes a = false := by
  rw [Node.precedes_iff] at h
  rw [Node.not_precedes_iff]
  omega

/-- Of two nodes with different ids the one that the other does not precede comes first (43 R103). -/
theorem Node.precedes_of_not_precedes {a b : Node} (h : b.precedes a = false) (ids : a.id ≠ b.id) :
    a.freq < b.freq ∨ (a.freq = b.freq ∧ a.id < b.id) := by
  rw [Node.not_precedes_iff] at h
  omega

/-- No node of the set precedes its minimum (43 R103). -/
theorem not_precedes_popMin {x n : Node} {xs : List Node} (h : n ∈ x :: xs) :
    n.precedes (popMin x xs).1 = false := by
  induction xs generalizing x n with
  | nil =>
    rw [List.mem_singleton.mp h, Node.not_precedes_iff]
    exact .inr ⟨rfl, Nat.le_refl _⟩
  | cons y ys ih =>
    unfold popMin
    split
    case isTrue smaller =>
      rcases List.mem_cons.mp h with rfl | htail
      · exact Node.not_precedes_trans (Node.not_precedes_of_precedes smaller) (ih List.mem_cons_self)
      · exact ih htail
    case isFalse notSmaller =>
      rcases List.mem_cons.mp h with rfl | htail
      · exact ih List.mem_cons_self
      · rcases List.mem_cons.mp htail with rfl | hys
        · exact Node.not_precedes_trans (Bool.not_eq_true _ ▸ notSmaller) (ih List.mem_cons_self)
        · exact ih (List.mem_cons_of_mem _ hys)

/-- What one merge with the id `nextId` makes of the set `q` (43 R104): `a` and then `b` are taken, `rest` stays. -/
inductive MergeStep (nextId : Nat) (q : List Node) : List Node → Prop where
  | join (a b : Node) (rest : List Node) (taken : q.Perm (a :: b :: rest)) (first : b.precedes a = false)
      (second : ∀ n, n ∈ rest → n.precedes b = false) :
      MergeStep nextId q (.inner (a.freq + b.freq) nextId a b :: rest)

/-- A set of two or more nodes is merged by one step of 43 R104. -/
theorem mergeStep_mergeOnce (nextId : Nat) {q : List Node} (h : 2 ≤ q.length) :
    MergeStep nextId q (mergeOnce nextId q) := by
  cases q with
  | nil => exact absurd h (by decide)
  | cons x xs =>
    have popped := popMin_perm x xs
    simp only [mergeOnce]
    cases hrest : (popMin x xs).2 with
    | nil =>
      have := popped.length_eq
      simp only [hrest, List.length_cons, List.length_nil] at this h
      omega
    | cons y ys =>
      rw [hrest] at popped
      have popped' := popMin_perm y ys
      have later : ∀ n, n ∈ y :: ys → n.precedes (popMin x xs).1 = false := fun n hn =>
        not_precedes_popMin (popped.subset (List.mem_cons_of_mem _ hn))
      exact .join _ _ _ (popped.symm.trans (popped'.symm.cons _))
        (later _ (popped'.subset List.mem_cons_self))
        fun n hn => not_precedes_popMin (popped'.subset (List.mem_cons_of_mem _ hn))

namespace MergeStep

variable {nextId : Nat} {q q' : List Node}

theorem length_eq (h : MergeStep nextId q q') : q.length = q'.length + 1 := by
  cases h with
  | join a b rest taken => exact taken.length_eq

/-- The parent has the summed frequency, so the total stays (43 R104). -/
theorem sum_freq (h : MergeStep nextId q q') : (q'.map Node.freq).sum = (q.map Node.freq).sum := by
  cases h with
  | join a b rest taken =>
    rw [(taken.map Node.freq).sum_eq]
    simp only [List.map_cons, List.sum_cons, Node.freq]
    omega

/-- The fresh id keeps the ids below the next one (43 R104). -/
theorem id_lt (h : MergeStep nextId q q') (below : ∀ n, n ∈ q → n.id < nextId) {n : Node} (hn : n ∈ q') :
    n.id < nextId + 1 := by
  cases h with
  | join a b rest taken =>
    rcases List.mem_cons.mp hn with rfl | hrest
    · exact Nat.lt_succ_self nextId
    · exact Nat.lt_succ_of_lt (below n (taken.symm.subset (by simp [hrest])))

/-- The fresh id keeps the ids unique (43 R104). -/
theorem nodup_ids (h : MergeStep nextId q q') (ids : (q.map Node.id).Nodup) (below : ∀ n, n ∈ q → n.id < nextId) :
    (q'.map Node.id).Nodup := by
  cases h with
  | join a b rest taken =>
    have idsTaken := (taken.map Node.id).nodup_iff.mp ids
    refine List.nodup_cons.mpr ⟨fun hmem => ?_, idsTaken.of_cons.of_cons⟩
    obtain ⟨n, hrest, heq⟩ := List.mem_map.mp hmem
    have := below n (taken.symm.subset (by simp [hrest]))
    rw [heq] at this
    exact Nat.lt_irrefl _ this

end MergeStep

end Sys2Proof.Machine
end

section
/-! MERGE repeats the step until one root is left (43 R104). -/

namespace Sys2Proof.Machine

theorem mergeOnce_length (nextId : Nat) {q : List Node} (h : 2 ≤ q.length) :
    (mergeOnce nextId q).length = q.length - 1 := by
  rw [(mergeStep_mergeOnce nextId h).length_eq, Nat.add_sub_cancel]

/-- Each of the merges takes one node from the set (43 R104). -/
theorem mergeTimes_length {n nextId : Nat} {q : List Node} (h : n < q.length) :
    (mergeTimes n nextId q).length = q.length - n := by
  induction n generalizing nextId q with
  | zero => rfl
  | succ n ih =>
    have shorter := mergeOnce_length nextId (q := q) (by omega)
    rw [mergeTimes, ih (by omega), shorter]
    omega

/-- The last of the merges, with the last id (43 R104). -/
theorem mergeTimes_succ_last (n nextId : Nat) (q : List Node) :
    mergeTimes (n + 1) nextId q = mergeOnce (nextId + n) (mergeTimes n nextId q) := by
  induction n generalizing nextId q with
  | zero => rfl
  | succ n ih => rw [mergeTimes, ih, mergeTimes, Nat.add_right_comm, Nat.add_assoc]

/-- What every merge keeps holds after the merges if it held before. -/
theorem mergeTimes_invariant {P : List Node → Prop}
    (keep : ∀ {nextId q q'}, MergeStep nextId q q' → P q → P q') {n nextId : Nat} {q : List Node}
    (h : n < q.length) (start : P q) : P (mergeTimes n nextId q) := by
  induction n generalizing nextId q with
  | zero => exact start
  | succ n ih =>
    have two : 2 ≤ q.length := by omega
    have shorter := mergeOnce_length nextId two
    exact ih (by omega) (keep (mergeStep_mergeOnce nextId two) start)

/-- What every merge keeps holds of the root if it holds of the leaves (43 R104). -/
theorem merge_invariant {P : List Node → Prop} (keep : ∀ {nextId q q'}, MergeStep nextId q q' → P q → P q')
    {q : List Node} (nonempty : 0 < q.length) (start : P q) : P (merge q) :=
  mergeTimes_invariant keep (Nat.sub_lt nonempty Nat.one_pos) start

/-- Two or more nodes leave one root, the parent made last (43 R104). -/
theorem exists_merge_eq_inner {q : List Node} (h : 2 ≤ q.length) :
    ∃ f l r, merge q = [.inner f (2 * q.length - 2) l r] := by
  obtain ⟨n, hn⟩ : ∃ n, q.length = n + 2 := ⟨_, (Nat.sub_add_cancel h).symm⟩
  have merged : merge q = mergeOnce (2 * q.length - 2) (mergeTimes n q.length q) := by
    rw [merge, show q.length - 1 = n + 1 by omega, mergeTimes_succ_last,
      show q.length + n = 2 * q.length - 2 by omega]
  have lastTwo : (mergeTimes n q.length q).length = 2 := by
    rw [mergeTimes_length (by omega)]
    omega
  have step := mergeStep_mergeOnce (2 * q.length - 2) lastTwo.ge
  rw [← merged] at step
  have single := step.length_eq
  generalize merge q = q' at step single ⊢
  cases step with
  | join a b rest =>
    obtain rfl : rest = [] := List.eq_nil_of_length_eq_zero (by simp only [List.length_cons] at single; omega)
    exact ⟨_, _, _, rfl⟩

theorem merge_sum_freq {q : List Node} (nonempty : 0 < q.length) :
    ((merge q).map Node.freq).sum = (q.map Node.freq).sum :=
  merge_invariant (P := fun x => (x.map Node.freq).sum = (q.map Node.freq).sum)
    (fun step held => step.sum_freq.trans held) nonempty rfl

theorem usedSymbols_pairwise_lt (freq : List Nat) : (usedSymbols freq).Pairwise (· < ·) :=
  List.pairwise_lt_range.filter _

@[simp] theorem leaves_length (freq : List Nat) : (leaves freq).length = (usedSymbols freq).length := by
  simp [leaves]

/-- Leaf `j` is made of the `j`-th used symbol (43 R102). -/
theorem leaves_getElem? (freq : List Nat) (j : Nat) :
    (leaves freq)[j]? = (usedSymbols freq)[j]?.map fun s => Node.leaf (freqAt freq s) j (BitVec.ofNat 9 s) := by
  rw [leaves, List.getElem?_map, List.getElem?_zipIdx, Option.map_map, Nat.zero_add]
  rfl

/-- Settles O49: the root is the parent of the last two nodes, and each merge is a `MergeStep`, whose order is strict
where ids are unique. -/
theorem mergeLeavesOneRoot : Obligations.MergeLeavesOneRoot := by
  refine ⟨fun freq two => ?_,
    fun freq => ⟨usedSymbols_pairwise_lt freq, fun s => mem_usedSymbols, leaves_getElem? freq⟩,
    fun q => rfl, fun n nextId q => ⟨rfl, rfl⟩, fun nextId q two ids below => ?_⟩
  · obtain ⟨f, l, r, heq⟩ := exists_merge_eq_inner two
    have total := merge_sum_freq (q := leaves freq) (by omega)
    rw [heq, List.map_singleton, List.sum_singleton] at total
    exact ⟨f, l, r, heq, total⟩
  · have step := mergeStep_mergeOnce nextId two
    have ids' := step.nodup_ids ids below
    have below' := fun n => step.id_lt below (n := n)
    generalize mergeOnce nextId q = q' at *
    cases step with
    | join a b rest taken first second =>
      have idsTaken := (taken.map Node.id).nodup_iff.mp ids
      simp only [List.map_cons, List.nodup_cons, List.mem_cons, List.mem_map, not_or, not_exists, not_and] at idsTaken
      obtain ⟨⟨hab, -⟩, hb, -⟩ := idsTaken
      exact ⟨a, b, rest, taken, rfl, Node.precedes_of_not_precedes first hab,
        fun n hn => Node.precedes_of_not_precedes (second n hn) (Ne.symm (hb n hn)), ids', below'⟩

end Sys2Proof.Machine
end

section
/-! DEPTHS: the raw depth of a symbol is the length of the path to its leaf (43 R106). -/

namespace Sys2Proof.Machine

/-- DEPTHS lists, for each path to a leaf, the leaf's symbol with the path's length (43 R106). -/
theorem mem_rawDepths_iff {d e : Nat} {s : Sym} {n : Node} :
    (s, e) ∈ rawDepths d n ↔ ∃ path f i, d + path.length = e ∧ n.follow path = some (.leaf f i s) := by
  induction n generalizing d with
  | leaf f i s' =>
    rw [rawDepths, List.mem_singleton]
    constructor
    · rintro ⟨⟩
      exact ⟨[], f, i, rfl, rfl⟩
    · rintro ⟨_ | ⟨c, path⟩, _, _, rfl, ⟨⟩⟩
      rfl
  | inner f i l r ihl ihr =>
    rw [rawDepths, List.mem_append, ihl, ihr]
    constructor
    · rintro (⟨path, f, i, rfl, h⟩ | ⟨path, f, i, rfl, h⟩)
      · exact ⟨false :: path, f, i, by rw [List.length_cons]; omega, h⟩
      · exact ⟨true :: path, f, i, by rw [List.length_cons]; omega, h⟩
    · rintro ⟨_ | ⟨_ | _, path⟩, f, i, rfl, h⟩
      · cases h
      · exact .inl ⟨path, f, i, by rw [List.length_cons]; omega, h⟩
      · exact .inr ⟨path, f, i, by rw [List.length_cons]; omega, h⟩

theorem Node.symbols_length_pos (n : Node) : 0 < n.symbols.length := by
  induction n with
  | leaf => exact Nat.one_pos
  | inner f i l r ihl =>
    rw [symbols, List.length_append]
    omega

/-- A path passes fewer inner nodes than there are leaves, as each of them has a leaf off the path (43 R106). -/
theorem Node.path_length_lt {n : Node} {path : List Bool} {f i : Nat} {s : Sym}
    (h : n.follow path = some (.leaf f i s)) : path.length < n.symbols.length := by
  induction n generalizing path with
  | leaf =>
    cases path with
    | nil => exact Nat.one_pos
    | cons => cases h
  | inner f' i' l r ihl ihr =>
    have hl := l.symbols_length_pos
    have hr := r.symbols_length_pos
    rw [symbols, List.length_append]
    cases path with
    | nil =>
      rw [List.length_nil]
      omega
    | cons c path =>
      rw [List.length_cons]
      cases c with
      | false =>
        have := ihl (path := path) h
        omega
      | true =>
        have := ihr (path := path) h
        omega

theorem le_snd_of_mem_rawDepths {d : Nat} {n : Node} {sd : Sym × Nat} (h : sd ∈ rawDepths d n) : d ≤ sd.2 := by
  obtain ⟨path, -, -, hlen, -⟩ := mem_rawDepths_iff.mp h
  omega

end Sys2Proof.Machine
end

section
/-! The raw depths of a frequency table, by the number of its used symbols (43 R106 to R108). -/

namespace Sys2Proof.Machine

/-- No used symbol, a lone one, or a root with two children (43 R106 to R108). -/
theorem rawDepthsOf_cases (freq : List Nat) :
    (usedSymbols freq = [] ∧ rawDepthsOf freq = []) ∨
    (∃ s, usedSymbols freq = [s] ∧ rawDepthsOf freq = [(BitVec.ofNat 9 s, 1)]) ∨
    (2 ≤ (usedSymbols freq).length ∧ ∃ f i l r, merge (leaves freq) = [.inner f i l r] ∧
      rawDepthsOf freq = rawDepths 0 (.inner f i l r)) := by
  cases used : usedSymbols freq with
  | nil =>
    have noLeaf : merge (leaves freq) = [] := by
      rw [leaves, used]
      rfl
    refine .inl ⟨rfl, ?_⟩
    unfold rawDepthsOf
    rw [noLeaf]
  | cons s tail =>
    cases tail with
    | nil =>
      have oneLeaf : merge (leaves freq) = [.leaf (freqAt freq s) 0 (BitVec.ofNat 9 s)] := by
        rw [leaves, used]
        rfl
      refine .inr (.inl ⟨s, rfl, ?_⟩)
      unfold rawDepthsOf
      rw [oneLeaf]
    | cons s' tail =>
      have two : 2 ≤ (s :: s' :: tail).length := Nat.le_add_left 2 tail.length
      obtain ⟨f, l, r, heq⟩ := exists_merge_eq_inner (q := leaves freq) (by rw [leaves_length, used]; exact two)
      refine .inr (.inr ⟨two, f, _, l, r, heq, ?_⟩)
      unfold rawDepthsOf
      rw [heq]

/-- A used symbol fits the nine bits of a leaf's symbol field (43 R102). -/
theorem toNat_ofNat_of_mem_usedSymbols {freq : List Nat} {s : Nat} (h : s ∈ usedSymbols freq) :
    (BitVec.ofNat 9 s).toNat = s := by
  have hs : s < 512 := (mem_usedSymbols.mp h).1
  rw [BitVec.toNat_ofNat, Nat.mod_eq_of_lt hs]

/-- MERGE's root has the used symbols below it (43 R102, R104). -/
theorem root_symbols_perm {freq : List Nat} {root : Node} (h : merge (leaves freq) = [root]) :
    root.symbols.Perm ((usedSymbols freq).map (BitVec.ofNat 9)) := by
  have kept := merge_symbols_perm (leaves freq)
  rwa [h, List.flatMap_singleton, leaves_symbols] at kept

/-- The symbols with a raw depth are the used symbols, each once (43 R106 to R108). -/
theorem rawDepthsOf_symbols_perm (freq : List Nat) :
    ((rawDepthsOf freq).map fun sd => sd.1.toNat).Perm (usedSymbols freq) := by
  rcases rawDepthsOf_cases freq with ⟨used, raw⟩ | ⟨s, used, raw⟩ | ⟨-, f, i, l, r, root, raw⟩
  · rw [used, raw]
    exact .nil
  · have hs : s ∈ usedSymbols freq := by simp [used]
    rw [raw, used, List.map_singleton, toNat_ofNat_of_mem_usedSymbols hs]
  · have keys : (rawDepthsOf freq).map (fun sd => sd.1.toNat) = (Node.inner f i l r).symbols.map BitVec.toNat := by
      rw [raw, ← map_fst_rawDepths 0, List.map_map]
      rfl
    have back : ((usedSymbols freq).map (BitVec.ofNat 9)).map BitVec.toNat = usedSymbols freq := by
      rw [List.map_map]
      exact (List.map_congr_left fun s hs => toNat_ofNat_of_mem_usedSymbols hs).trans (List.map_id _)
    rw [keys, ← back]
    exact (root_symbols_perm root).map _

/-- A raw depth is at least 1: the root of two or more leaves is none of them, and a lone root gets 1 (43 R106, R107). -/
theorem one_le_of_mem_rawDepthsOf {freq : List Nat} {sd : Sym × Nat} (h : sd ∈ rawDepthsOf freq) : 1 ≤ sd.2 := by
  rcases rawDepthsOf_cases freq with ⟨-, raw⟩ | ⟨s, -, raw⟩ | ⟨-, f, i, l, r, -, raw⟩
  · rw [raw] at h
    exact absurd h List.not_mem_nil
  · rw [raw] at h
    rw [List.mem_singleton.mp h]
  · rw [raw, rawDepths] at h
    rcases List.mem_append.mp h with hl | hr
    · exact le_snd_of_mem_rawDepths hl
    · exact le_snd_of_mem_rawDepths hr

theorem clampDepth_toNat (d : Nat) : (clampDepth d).toNat = min d 255 := by
  unfold clampDepth depthMax
  split
  case isTrue above => exact (Nat.min_eq_right above.le).symm
  case isFalse fits =>
    rw [BitVec.toNat_ofNat]
    omega

/-- The table has a symbol's raw depth, clamped: no other entry has its symbol (43 R109). -/
theorem depthAt_of_mem_rawDepthsOf {freq : List Nat} {sd : Sym × Nat} (h : sd ∈ rawDepthsOf freq) :
    depthAt (buildFromFreq freq).depth sd.1.toNat = min sd.2 255 := by
  have once : ((rawDepthsOf freq).map fun sd => sd.1.toNat).Nodup :=
    (rawDepthsOf_symbols_perm freq).nodup_iff.mpr ((usedSymbols_pairwise_lt freq).imp Nat.ne_of_lt)
  have found : (rawDepthsOf freq).find? (fun e => e.1.toNat == sd.1.toNat) = some sd := by
    cases hf : (rawDepthsOf freq).find? (fun e => e.1.toNat == sd.1.toNat) with
    | none => exact absurd (BEq.rfl) (List.find?_eq_none.mp hf sd h)
    | some e =>
      have same : e.1.toNat = sd.1.toNat := by simpa using List.find?_some hf
      exact congrArg some (List.inj_on_of_nodup_map once (List.mem_of_find?_eq_some hf) h same)
  rw [buildFromFreq, depthAt_depthTable _ _ sd.1.isLt, found]
  exact clampDepth_toNat sd.2

/-- Settles O50: the bounds are those of the paths from MERGE's root to its leaves. -/
theorem rawDepthsAreBounded : Obligations.RawDepthsAreBounded := by
  intro freq two
  rcases rawDepthsOf_cases freq with ⟨used, -⟩ | ⟨s, used, -⟩ | ⟨-, f, i, l, r, root, raw⟩
  · simp [used] at two
  · simp [used] at two
  · have paths : ∀ s d, (s, d) ∈ rawDepthsOf freq ↔
        ∃ path f' i', path.length = d ∧ (Node.inner f i l r).follow path = some (.leaf f' i' s) := by
      intro s d
      simp only [raw, mem_rawDepths_iff, Nat.zero_add]
    refine ⟨rawDepthsOf_symbols_perm freq, fun sd h => ⟨one_le_of_mem_rawDepthsOf h, ?_, depthAt_of_mem_rawDepthsOf h⟩,
      _, root, paths⟩
    obtain ⟨path, f', i', hlen, hfollow⟩ := (paths sd.1 sd.2).mp h
    have short := Node.path_length_lt hfollow
    rw [(root_symbols_perm root).length_eq, List.length_map] at short
    omega

/-- A used symbol has a depth (43 R107 to R109). -/
theorem depthAt_pos_of_mem_usedSymbols {freq : List Nat} {s : Nat} (h : s ∈ usedSymbols freq) :
    0 < depthAt (buildFromFreq freq).depth s := by
  obtain ⟨sd, hmem, rfl⟩ := List.mem_map.mp ((rawDepthsOf_symbols_perm freq).symm.subset h)
  have := one_le_of_mem_rawDepthsOf hmem
  rw [depthAt_of_mem_rawDepthsOf hmem]
  omega

/-- A lone used symbol has depth 1 (43 R107). -/
theorem depthAt_of_usedSymbols_eq_singleton {freq : List Nat} {s : Nat} (h : usedSymbols freq = [s]) :
    depthAt (buildFromFreq freq).depth s = 1 := by
  have hs : s ∈ usedSymbols freq := by simp [h]
  rcases rawDepthsOf_cases freq with ⟨used, -⟩ | ⟨s', used, raw⟩ | ⟨two, -⟩
  · simp [h] at used
  · obtain rfl : s = s' := by simpa [h] using used
    have lone : (BitVec.ofNat 9 s, 1) ∈ rawDepthsOf freq := by simp [raw]
    have entry := depthAt_of_mem_rawDepthsOf lone
    rwa [toNat_ofNat_of_mem_usedSymbols hs] at entry
  · simp [h] at two

/-- Settles O51: every used symbol has a raw depth of at least 1, and no other has any. -/
theorem usedSymbolsHaveDepths : Obligations.UsedSymbolsHaveDepths := by
  refine fun freq => ⟨fun s hs => ⟨fun depth => ?_, depthAt_of_freqAt_eq_zero hs⟩,
    fun s => depthAt_of_usedSymbols_eq_singleton⟩
  by_contra used
  have := depthAt_pos_of_mem_usedSymbols (mem_usedSymbols.mpr ⟨hs, Nat.pos_of_ne_zero used⟩)
  omega

end Sys2Proof.Machine
end

section
/-! The depths of a full tree sum to 1 (43 R113). -/

namespace Sys2Proof.Machine

/-- The symbols with a depth are the used symbols (43 R108). -/
theorem codedSymbols_buildFromFreq (freq : List Nat) : codedSymbols (buildFromFreq freq).depth = usedSymbols freq := by
  refine List.filter_congr fun s hs => decide_eq_decide.mpr ⟨fun coded => ?_, fun used => ?_⟩
  · by_contra unused
    rw [depthAt_of_freqAt_eq_zero (List.mem_range.mp hs) (Nat.eq_zero_of_not_pos unused)] at coded
    exact Nat.lt_irrefl 0 coded
  · exact depthAt_pos_of_mem_usedSymbols (mem_usedSymbols.mpr ⟨List.mem_range.mp hs, used⟩)

/-- The sum over the table's depths is the sum over the raw depths: a clamped one counts 1 in both (43 R109). -/
theorem depthSum_eq_sum_rawDepthsOf (freq : List Nat) :
    depthSum (buildFromFreq freq).depth = ((rawDepthsOf freq).map fun sd => 2 ^ (depthMax - sd.2)).sum := by
  rw [depthSum, codedSymbols_buildFromFreq, ← ((rawDepthsOf_symbols_perm freq).map _).sum_eq, List.map_map]
  refine congrArg List.sum (List.map_congr_left fun sd hmem => ?_)
  rw [Function.comp_apply, depthAt_of_mem_rawDepthsOf hmem, depthMax]
  congr 1
  omega

theorem exists_mem_rawDepths (d : Nat) (n : Node) : ∃ sd, sd ∈ rawDepths d n := by
  refine List.exists_mem_of_length_pos ?_
  rw [← List.length_map (f := Prod.fst), map_fst_rawDepths]
  exact n.symbols_length_pos

/-- The leaves below a node at depth `d` fill its share `2^-d`, as each of its children fills half of it (43 R113). -/
theorem sum_pow_rawDepths {top d : Nat} {n : Node} (fits : ∀ sd, sd ∈ rawDepths d n → sd.2 ≤ top) :
    ((rawDepths d n).map fun sd => 2 ^ (top - sd.2)).sum = 2 ^ (top - d) := by
  induction n generalizing d with
  | leaf f i s => rw [rawDepths, List.map_singleton, List.sum_singleton]
  | inner f i l r ihl ihr =>
    rw [rawDepths] at fits ⊢
    obtain ⟨sd, hmem⟩ := exists_mem_rawDepths (d + 1) l
    have below : d + 1 ≤ top :=
      (le_snd_of_mem_rawDepths hmem).trans (fits sd (List.mem_append_left _ hmem))
    rw [List.map_append, List.sum_append, ihl fun sd h => fits sd (List.mem_append_left _ h),
      ihr fun sd h => fits sd (List.mem_append_right _ h), ← Nat.two_mul, ← Nat.pow_succ']
    congr 1
    omega

/-- The clamp result is false when every raw depth fits a byte (43 R109, R112). -/
theorem clamped_eq_false_iff {freq : List Nat} :
    (buildFromFreq freq).clamped = false ↔ ∀ sd, sd ∈ rawDepthsOf freq → sd.2 ≤ 255 := by
  simp only [buildFromFreq, List.any_eq_false, decide_eq_true_eq, Nat.not_lt]
  exact Iff.rfl

/-- Settles O52: the root fills the whole, and a lone leaf is given half of it. -/
theorem depthSumIsOne : Obligations.DepthSumIsOne := by
  intro freq unclamped
  have fits := clamped_eq_false_iff.mp unclamped
  rw [depthSum_eq_sum_rawDepthsOf]
  rcases rawDepthsOf_cases freq with ⟨used, raw⟩ | ⟨s, used, raw⟩ | ⟨two, f, i, l, r, -, raw⟩
  · simp [used]
  · refine ⟨fun two => ?_, fun _ => ?_⟩
    · simp [used] at two
    · simp [raw, depthMax]
  · rw [raw] at fits ⊢
    exact ⟨fun _ => sum_pow_rawDepths fits, fun one => by omega⟩

end Sys2Proof.Machine
end

section
/-! A deep leaf needs a large total: the Fibonacci bound of 43 R111. -/

namespace Sys2Proof.Machine

/-- The node's children, if it has any, have at most the frequency `b`. -/
def Node.ChildrenLe (b : Nat) : Node → Prop
  | .leaf _ _ _ => True
  | .inner _ _ l r => l.freq ≤ b ∧ r.freq ≤ b

/-- A tree that MERGE makes of used symbols: frequencies add up from positive leaves, and no grandchild is more frequent than
its parent's sibling (43 R104). -/
def Node.Grown : Node → Prop
  | .leaf f _ _ => 0 < f
  | .inner f _ l r => f = l.freq + r.freq ∧ l.ChildrenLe r.freq ∧ r.ChildrenLe l.freq ∧ l.Grown ∧ r.Grown

theorem Node.ChildrenLe.mono {b c : Nat} {n : Node} (h : n.ChildrenLe b) (hbc : b ≤ c) : n.ChildrenLe c := by
  cases n with
  | leaf => trivial
  | inner f i l r =>
    obtain ⟨hl, hr⟩ := h
    exact ⟨hl.trans hbc, hr.trans hbc⟩

/-- The path's first step and its second give the two terms of the Fibonacci sum (43 R111). -/
theorem Node.Grown.fib_le {n : Node} {path : List Bool} {f i : Nat} {s : Sym} (grown : n.Grown)
    (h : n.follow path = some (.leaf f i s)) :
    (path.length + 1).fib ≤ n.freq ∧ ∀ b, n.ChildrenLe b → path.length.fib ≤ b := by
  induction n generalizing path with
  | leaf f' i' s' =>
    cases path with
    | nil => exact ⟨grown, fun b _ => Nat.zero_le b⟩
    | cons => cases h
  | inner f' i' l r ihl ihr =>
    obtain ⟨total, hl, hr, grownL, grownR⟩ := grown
    cases path with
    | nil => cases h
    | cons c path =>
      rw [List.length_cons, Nat.fib_add_two]
      simp only [freq, ChildrenLe]
      cases c with
      | false =>
        obtain ⟨child, grandchild⟩ := ihl (path := path) grownL h
        have := grandchild _ hl
        exact ⟨by omega, fun b ⟨hb, _⟩ => child.trans hb⟩
      | true =>
        obtain ⟨child, grandchild⟩ := ihr (path := path) grownR h
        have := grandchild _ hr
        exact ⟨by omega, fun b ⟨_, hb⟩ => child.trans hb⟩

/-- The sets that MERGE goes through: grown trees, no child of one more frequent than any other of them (43 R104). -/
structure GrownSet (q : List Node) : Prop where
  grown : ∀ n, n ∈ q → n.Grown
  childrenLe : ∀ n, n ∈ q → ∀ m, m ∈ q → n.ChildrenLe m.freq

theorem grownSet_leaves (freq : List Nat) : GrownSet (leaves freq) := by
  have isLeaf : ∀ n, n ∈ leaves freq → ∃ s j, 0 < freqAt freq s ∧ n = .leaf (freqAt freq s) j (BitVec.ofNat 9 s) := by
    intro n hn
    obtain ⟨⟨s, j⟩, hsj, rfl⟩ := List.mem_map.mp hn
    exact ⟨s, j, (mem_usedSymbols.mp (List.fst_mem_of_mem_zipIdx hsj)).2, rfl⟩
  constructor
  · intro n hn
    obtain ⟨s, j, used, rfl⟩ := isLeaf n hn
    exact used
  · intro n hn m _
    obtain ⟨s, j, -, rfl⟩ := isLeaf n hn
    trivial

/-- The parent's children came first, so they are no more frequent than what stays (43 R103, R104). -/
theorem MergeStep.grownSet {nextId : Nat} {q q' : List Node} (step : MergeStep nextId q q') (h : GrownSet q) :
    GrownSet q' := by
  cases step with
  | join a b rest taken first second =>
    have ha : a ∈ q := taken.symm.subset (by simp)
    have hb : b ∈ q := taken.symm.subset (by simp)
    have hrest : ∀ n, n ∈ rest → n ∈ q := fun n hn => taken.symm.subset (by simp [hn])
    have hab := Node.freq_le_of_not_precedes first
    constructor
    · intro n hn
      rcases List.mem_cons.mp hn with rfl | hn
      · exact ⟨rfl, h.childrenLe a ha b hb, h.childrenLe b hb a ha, h.grown a ha, h.grown b hb⟩
      · exact h.grown n (hrest n hn)
    · intro n hn m hm
      rcases List.mem_cons.mp hn with rfl | hn <;> rcases List.mem_cons.mp hm with rfl | hm
      · exact ⟨Nat.le_add_right _ _, Nat.le_add_left _ _⟩
      · have hbm := Node.freq_le_of_not_precedes (second m hm)
        exact ⟨hab.trans hbm, hbm⟩
      · exact (h.childrenLe n (hrest n hn) a ha).mono (Nat.le_add_right _ _)
      · exact h.childrenLe n (hrest n hn) m (hrest m hm)

/-- A raw depth `d` needs a total frequency of at least `F(d + 1)` (43 R111). -/
theorem fib_le_sum_of_mem_rawDepthsOf {freq : List Nat} {sd : Sym × Nat} (h : sd ∈ rawDepthsOf freq)
    (two : 2 ≤ (usedSymbols freq).length) : (sd.2 + 1).fib ≤ ((leaves freq).map Node.freq).sum := by
  have nonempty : 0 < (leaves freq).length := by
    rw [leaves_length]
    omega
  rcases rawDepthsOf_cases freq with ⟨used, -⟩ | ⟨s, used, -⟩ | ⟨-, f, i, l, r, root, raw⟩
  · simp [used] at two
  · simp [used] at two
  · have grown := (merge_invariant MergeStep.grownSet nonempty (grownSet_leaves freq)).grown (.inner f i l r)
      (by simp [root])
    have total := merge_sum_freq nonempty
    rw [root, List.map_singleton, List.sum_singleton] at total
    rw [raw] at h
    obtain ⟨path, f', i', hlen, hfollow⟩ := mem_rawDepths_iff.mp h
    rw [← hlen, Nat.zero_add, ← total]
    exact (grown.fib_le hfollow).1

end Sys2Proof.Machine
end

section
/-! The builds the spec allows take no payload of more than 2^30 bytes (00 R8). -/

namespace Sys2Proof

theorem Params.wf_ibufSize_le {p : Params} (h : p.wf = true) : p.ibufSize.toNat ≤ 2 ^ 30 := by
  simp only [Params.wf, Bool.and_eq_true, decide_eq_true_eq] at h
  omega

end Sys2Proof
end

section
/-! No accepted payload has records enough for a depth that the clamp would change (43 R110, R111). -/

namespace Sys2Proof.Machine

/-- The leaves' frequencies are those of the used symbols (43 R102). -/
theorem leaves_sum_freq (freq : List Nat) :
    ((leaves freq).map Node.freq).sum = ((usedSymbols freq).map (freqAt freq)).sum := by
  have fsts : (leaves freq).map Node.freq = ((usedSymbols freq).zipIdx.map Prod.fst).map (freqAt freq) := by
    rw [leaves, List.map_map, List.map_map]
    rfl
  rw [fsts, List.zipIdx_map_fst]

/-- The leaves' total is at most the number of records (43 R101, R102). -/
theorem leaves_count_sum_le (s : List Match) : ((leaves (count s)).map Node.freq).sum ≤ s.length := by
  have table : (List.range alphabet).map (freqAt (count s)) = count s :=
    List.map_congr_left fun i hi => freqAt_count s i (List.mem_range.mp hi)
  calc ((leaves (count s)).map Node.freq).sum
      = ((usedSymbols (count s)).map (freqAt (count s))).sum := leaves_sum_freq _
    _ ≤ ((List.range alphabet).map (freqAt (count s))).sum :=
        (List.filter_sublist.map _).sum_le_sum fun _ _ => Nat.zero_le _
    _ = s.length := by rw [table, countsAddUpToRecords]

/-- A total below `F(257)` keeps every raw depth at 255 or less (43 R111). -/
theorem rawDepth_le_of_length_le {s : List Match} (short : s.length ≤ 2 ^ 30) {sd : Sym × Nat}
    (h : sd ∈ rawDepthsOf (count s)) : sd.2 ≤ 255 := by
  by_contra deep
  rcases rawDepthsOf_cases (count s) with ⟨-, raw⟩ | ⟨t, -, raw⟩ | ⟨two, -⟩
  · simp [raw] at h
  · rw [raw, List.mem_singleton] at h
    simp [h] at deep
  · have bound : (2 : Nat) ^ 30 < (46 : Nat).fib := by norm_num [Nat.fib]
    have mono : (46 : Nat).fib ≤ (sd.2 + 1).fib := Nat.fib_mono (by omega)
    have total := (fib_le_sum_of_mem_rawDepthsOf h two).trans (leaves_count_sum_le s)
    omega

/-- There are no more records than payload bytes (42 R99). -/
theorem findMatches_length_le (p : List Byte) : (findMatches p).length ≤ p.length := by
  have covers := (parsesFrom_findMatches p).add_sum_len
  have := length_le_sum_len (findMatches p)
  omega

/-- No accepted payload has a raw depth that the clamp would change (43 R111). -/
theorem rawDepth_le_of_payload {p : List Byte} (short : p.length ≤ 2 ^ 30) {sd : Sym × Nat}
    (h : sd ∈ rawDepthsOf (count (findMatches p))) : sd.2 ≤ 255 :=
  rawDepth_le_of_length_le ((findMatches_length_le p).trans short) h

theorem encodePayload_clamped_eq (p : List Byte) (k : Word) :
    (encodePayload p k).clamped = (buildFromFreq (count (findMatches p))).clamped := by
  simp only [encodePayload, runUnits, buildDepths]

/-- The clamp result of an accepted payload is false (43 R111). -/
theorem encodePayload_clamped {p : List Byte} (k : Word) (short : p.length ≤ 2 ^ 30) :
    (encodePayload p k).clamped = false := by
  rw [encodePayload_clamped_eq, clamped_eq_false_iff]
  exact fun _ => rawDepth_le_of_payload short

/-- The completion step leaves CLAMP at 0: an error clears it, and a payload that fits IBUF is never clamped (43 R110,
R111). -/
theorem State.complete_clamp {s : State} (build : s.params.wf = true) : s.complete.clamp = false := by
  rcases s.complete_cases with ⟨-, heq⟩ | ⟨fits, heq⟩
  · rw [heq, State.runError_clamp]
  · have short : s.payload.length ≤ 2 ^ 30 := by
      rw [State.payload, List.length_map, List.length_range]
      exact fits.trans (Params.wf_ibufSize_le build)
    rw [heq]
    rcases State.deliver_cases { s with work := runUnits s.payload s.key } (encodePayload s.payload s.key) with
      ⟨-, delivered⟩ | ⟨-, delivered⟩
    · rw [delivered, State.runError_clamp]
    · rw [delivered, State.finishRun_clamp, encodePayload_clamped _ short]

/-- Settles O53: the number of records bounds the root's frequency, and that the depth, by the Fibonacci numbers. -/
theorem clampIsUnreachable : Obligations.ClampIsUnreachable := by
  refine ⟨fun p k short => ⟨encodePayload_clamped k short, fun _ => rawDepth_le_of_payload short⟩, ?_⟩
  intro s t rest build running head h
  obtain rfl : s.advance.complete = t := Host.Outcome.next.inj ((step_completes head running).symm.trans h)
  exact State.complete_clamp build

end Sys2Proof.Machine
end

section
/-! The assigned codes are canonical (44 R114, R115, R117). -/

namespace Sys2Proof.Machine

/-- `a` stands before `b` in the coding order: by depth and then by symbol (44 R114). -/
def CcBefore (depth : List Byte) (a b : Nat) : Prop :=
  depthAt depth a < depthAt depth b ∨ (depthAt depth a = depthAt depth b ∧ a < b)

theorem CcBefore.depthAt_le {depth : List Byte} {a b : Nat} (h : CcBefore depth a b) :
    depthAt depth a ≤ depthAt depth b :=
  h.elim Nat.le_of_lt fun ⟨same, _⟩ => same.le

/-- `y` may stand next after `x` among the assigned codes: its symbol is later, and its code is the one before plus one,
shifted by the growth of the depth (44 R115, R117). -/
def CodeFollows (depth : List Byte) (x y : Nat × Nat) : Prop :=
  CcBefore depth x.1 y.1 ∧ y.2 = (x.2 + 1) <<< (depthAt depth y.1 - depthAt depth x.1)

theorem mem_codedSymbols {depth : List Byte} {s : Nat} :
    s ∈ codedSymbols depth ↔ s < alphabet ∧ 0 < depthAt depth s := by
  simp [codedSymbols]

theorem codedSymbols_nodup (depth : List Byte) : (codedSymbols depth).Nodup :=
  List.nodup_range.filter _

/-- CC_SORT reorders the symbols with a depth (44 R114). -/
theorem ccSort_perm (depth : List Byte) : (ccSort depth).Perm (codedSymbols depth) :=
  List.perm_insertionSort _ _

/-- CC_SORT's order is strict: its keys are unique (44 R114). -/
theorem ccSort_pairwise (depth : List Byte) : (ccSort depth).Pairwise (CcBefore depth) := by
  have total : Std.Total (ccLe depth) := ⟨fun a b => by unfold ccLe; omega⟩
  have trans : IsTrans Nat (ccLe depth) := ⟨fun a b c => by unfold ccLe; omega⟩
  have sorted : (ccSort depth).Pairwise (ccLe depth) := List.pairwise_insertionSort _ _
  have once : (ccSort depth).Nodup := (ccSort_perm depth).nodup_iff.mpr (codedSymbols_nodup depth)
  refine (sorted.and once).imp fun ⟨le, ne⟩ => ?_
  unfold CcBefore
  omega

/-- One round of ASSIGN_CODES on a symbol that is no less deep than the one before: where the depth does not grow, the shift
is by 0 (44 R115). -/
theorem assignFrom_cons {depth : List Byte} {prev s : Nat} (code : Nat) (t : List Nat) (h : prev ≤ depthAt depth s) :
    assignFrom depth code prev (s :: t) =
      (s, code <<< (depthAt depth s - prev)) ::
        assignFrom depth (code <<< (depthAt depth s - prev) + 1) (depthAt depth s) t := by
  rw [assignFrom]
  split
  case isTrue => rfl
  case isFalse flat =>
    obtain rfl : prev = depthAt depth s := h.antisymm (Nat.le_of_not_lt flat)
    rw [Nat.sub_self, Nat.shiftLeft_zero]

/-- ASSIGN_CODES gives every symbol one code, in the order it is given them (44 R115). -/
theorem map_fst_assignFrom (depth : List Byte) (code prev : Nat) (t : List Nat) :
    (assignFrom depth code prev t).map Prod.fst = t := by
  induction t generalizing code prev with
  | nil => rfl
  | cons s t ih =>
    rw [assignFrom]
    split <;> rw [List.map_cons, ih]

/-- From any running code, each code follows the one before it (44 R115, R117). -/
theorem assignFrom_isChain {depth : List Byte} {prev : Nat} (code : Nat) {t : List Nat}
    (deeper : ∀ s, s ∈ t → prev ≤ depthAt depth s) (sorted : t.Pairwise (CcBefore depth)) :
    (assignFrom depth code prev t).IsChain (CodeFollows depth) := by
  induction t generalizing code prev with
  | nil => exact .nil
  | cons s t ih =>
    obtain ⟨first, rest⟩ := List.pairwise_cons.mp sorted
    have below : ∀ s', s' ∈ t → depthAt depth s ≤ depthAt depth s' := fun s' h => (first s' h).depthAt_le
    have tail := ih (code <<< (depthAt depth s - prev) + 1) below rest
    rw [assignFrom_cons code t (deeper s List.mem_cons_self)]
    cases t with
    | nil => exact .singleton _
    | cons s' t =>
      rw [assignFrom_cons _ t (below s' List.mem_cons_self)] at tail ⊢
      exact .cons_cons ⟨first s' List.mem_cons_self, rfl⟩ tail

theorem map_fst_assigned (depth : List Byte) : (assigned depth).map Prod.fst = ccSort depth :=
  map_fst_assignFrom depth 0 0 _

/-- The symbols with a code are those with a depth, each once (44 R114, R115). -/
theorem assigned_symbols_perm (depth : List Byte) : ((assigned depth).map Prod.fst).Perm (codedSymbols depth) := by
  rw [map_fst_assigned]
  exact ccSort_perm depth

theorem mem_codedSymbols_of_mem_assigned {depth : List Byte} {sc : Nat × Nat} (h : sc ∈ assigned depth) :
    sc.1 ∈ codedSymbols depth :=
  (assigned_symbols_perm depth).subset (List.mem_map_of_mem h)

theorem assigned_isChain (depth : List Byte) : (assigned depth).IsChain (CodeFollows depth) :=
  assignFrom_isChain 0 (fun _ _ => Nat.zero_le _) (ccSort_pairwise depth)

/-- The first code is 0, whatever its length (44 R115). -/
theorem snd_eq_zero_of_assigned_head {depth : List Byte} {sc : Nat × Nat} (h : (assigned depth)[0]? = some sc) :
    sc.2 = 0 := by
  rw [assigned] at h
  cases hsort : ccSort depth with
  | nil =>
    rw [hsort] at h
    cases h
  | cons s t =>
    rw [hsort, assignFrom_cons 0 t (Nat.zero_le _)] at h
    rw [← Option.some.inj h]
    exact Nat.zero_shiftLeft _

/-- The code table holds the code of each symbol that is given one only once (44 R115). -/
theorem codeAt_codeTable {codes : List (Nat × Nat)} {sc : Nat × Nat} (once : (codes.map Prod.fst).Nodup)
    (h : sc ∈ codes) (hs : sc.1 < alphabet) : codeAt (codeTable codes) sc.1 = sc.2 := by
  have found : codes.find? (fun e => e.1 == sc.1) = some sc := by
    cases hf : codes.find? (fun e => e.1 == sc.1) with
    | none => exact absurd BEq.rfl (List.find?_eq_none.mp hf sc h)
    | some e =>
      have same : e.1 = sc.1 := beq_iff_eq.mp (List.find?_some (p := fun e : Nat × Nat => e.1 == sc.1) hf)
      exact congrArg some (List.inj_on_of_nodup_map once (List.mem_of_find?_eq_some hf) h same)
  rw [codeAt, codeTable, List.getD_eq_getElem?_getD, List.getElem?_map, List.getElem?_range hs]
  simp only [Option.map_some, Option.getD_some, found]

/-- The code table holds the assigned codes (44 R115). -/
theorem codeAt_assignCodes {depth : List Byte} {sc : Nat × Nat} (h : sc ∈ assigned depth) :
    codeAt (assignCodes depth) sc.1 = sc.2 :=
  codeAt_codeTable ((assigned_symbols_perm depth).nodup_iff.mpr (codedSymbols_nodup depth)) h
    (mem_codedSymbols.mp (mem_codedSymbols_of_mem_assigned h)).1

/-- Settles O55: along the sorted symbols each round of ASSIGN_CODES gives the code that follows the last. -/
theorem codesAreCanonical : Obligations.CodesAreCanonical := by
  refine fun depth => ⟨assigned_symbols_perm depth, fun _ _ => codeAt_assignCodes,
    fun _ _ => snd_eq_zero_of_assigned_head, fun i s s' c c' h h' => ?_⟩
  obtain ⟨_, hx⟩ := List.getElem?_eq_some_iff.mp h
  obtain ⟨hi, hy⟩ := List.getElem?_eq_some_iff.mp h'
  have follows := List.isChain_iff_getElem.mp (assigned_isChain depth) i hi
  rwa [hx, hy] at follows

end Sys2Proof.Machine
end

section
/-! Without a clamp no code begins another (44 R116): a code of `d` bits takes the `2^(255 - d)` strings of 255 bits that
begin with it, these intervals lie side by side from 0 on, and the depth sum of 43 R113 bounds their end. -/

namespace Sys2Proof.Machine

/-- How many 255-bit strings begin with one code of the symbol's depth; 43 R113 sums these. -/
def codeShare (depth : List Byte) (s : Nat) : Nat := 2 ^ (depthMax - depthAt depth s)

/-- The first 255-bit string that begins with the code. -/
def codeLow (depth : List Byte) (sc : Nat × Nat) : Nat := sc.2 * codeShare depth sc.1

/-- The end of the 255-bit strings that begin with the code. -/
def codeHigh (depth : List Byte) (sc : Nat × Nat) : Nat := (sc.2 + 1) * codeShare depth sc.1

theorem depthAt_le_depthMax (depth : List Byte) (s : Nat) : depthAt depth s ≤ depthMax :=
  Nat.le_of_lt_succ (BitVec.isLt _)

theorem codeHigh_eq_add (depth : List Byte) (sc : Nat × Nat) :
    codeHigh depth sc = codeLow depth sc + codeShare depth sc.1 :=
  Nat.succ_mul _ _

/-- A shorter code's share is as many shares of a longer one as there are ways to fill it up (43 R113). -/
theorem codeShare_eq_mul {depth : List Byte} {s t : Nat} (h : depthAt depth s ≤ depthAt depth t) :
    codeShare depth s = 2 ^ (depthAt depth t - depthAt depth s) * codeShare depth t := by
  have := depthAt_le_depthMax depth t
  rw [codeShare, codeShare, ← Nat.pow_add]
  congr 1
  omega

/-- A code's strings begin where those of the code before it end (44 R117). -/
theorem CodeFollows.codeHigh_eq_codeLow {depth : List Byte} {x y : Nat × Nat} (h : CodeFollows depth x y) :
    codeHigh depth x = codeLow depth y := by
  obtain ⟨before, code⟩ := h
  rw [codeHigh, codeLow, code, Nat.shiftLeft_eq, codeShare_eq_mul before.depthAt_le, Nat.mul_assoc]

/-- The shares of the codes so far bound where a code's strings end. -/
theorem codeHigh_le_of_isChain {depth : List Byte} {x y : Nat × Nat} {l : List (Nat × Nat)}
    (chain : (x :: l).IsChain (CodeFollows depth)) (h : y ∈ x :: l) :
    codeHigh depth y ≤ codeLow depth x + ((x :: l).map fun sc => codeShare depth sc.1).sum := by
  induction l generalizing x with
  | nil =>
    rw [List.mem_singleton.mp h, codeHigh_eq_add, List.map_singleton, List.sum_singleton]
  | cons z l ih =>
    obtain ⟨follows, rest⟩ := List.isChain_cons_cons.mp chain
    rw [List.map_cons, List.sum_cons, ← Nat.add_assoc, ← codeHigh_eq_add]
    rcases List.mem_cons.mp h with rfl | later
    · exact Nat.le_add_right _ _
    · rw [follows.codeHigh_eq_codeLow]
      exact ih rest later

/-- The codes' strings end by the depth sum (43 R113, 44 R116). -/
theorem codeHigh_le_depthSum {depth : List Byte} {sc : Nat × Nat} (h : sc ∈ assigned depth) :
    codeHigh depth sc ≤ depthSum depth := by
  have shares : ((assigned depth).map fun sc => codeShare depth sc.1).sum = depthSum depth := by
    rw [depthSum, ← ((assigned_symbols_perm depth).map _).sum_eq, List.map_map]
    simp only [Function.comp_def, codeShare]
  cases codes : assigned depth with
  | nil => simp [codes] at h
  | cons x l =>
    have first : x.2 = 0 := snd_eq_zero_of_assigned_head (depth := depth) (by rw [codes]; rfl)
    have low : codeLow depth x = 0 := by rw [codeLow, first, Nat.zero_mul]
    have chain := assigned_isChain depth
    rw [codes] at h chain shares
    have bound := codeHigh_le_of_isChain chain h
    rwa [low, Nat.zero_add, shares] at bound

/-- The strings of two codes do not overlap. -/
def CodesApart (depth : List Byte) (x y : Nat × Nat) : Prop :=
  codeHigh depth x ≤ codeLow depth y ∨ codeHigh depth y ≤ codeLow depth x

/-- Two assigned codes share no strings: each begins at or after the end of all before it (44 R116). -/
theorem codesApart_of_mem_assigned {depth : List Byte} {x y : Nat × Nat} (hx : x ∈ assigned depth)
    (hy : y ∈ assigned depth) (ne : x ≠ y) : CodesApart depth x y := by
  have trans : IsTrans (Nat × Nat) fun x y => codeHigh depth x ≤ codeLow depth y :=
    ⟨fun x y z hxy hyz => by
      have := codeHigh_eq_add depth y
      omega⟩
  have symm : Std.Symm (CodesApart depth) := ⟨fun _ _ => Or.symm⟩
  have ordered : (assigned depth).Pairwise fun x y => codeHigh depth x ≤ codeLow depth y :=
    ((assigned_isChain depth).imp fun _ _ follows => follows.codeHigh_eq_codeLow.le).pairwise
  have apart : (assigned depth).Pairwise (CodesApart depth) := ordered.imp Or.inl
  exact apart.forall hx hy ne

theorem natOfBits_append (l r : List Bool) : natOfBits (l ++ r) = natOfBits l * 2 ^ r.length + natOfBits r := by
  induction r using List.reverseRecOn with
  | nil => simp [natOfBits]
  | append_singleton r b ih =>
    rw [← List.append_assoc, natOfBits_concat, natOfBits_concat, ih, List.length_append, List.length_singleton,
      Nat.pow_succ]
    ring

/-- A number that fits the width is read back from its bits (30 R61). -/
theorem natOfBits_bitsMsb {v w : Nat} (fits : v < 2 ^ w) : natOfBits (bitsMsb v w) = v := by
  induction w generalizing v with
  | zero =>
    rw [Nat.lt_one_iff.mp fits]
    rfl
  | succ w ih =>
    obtain ⟨n, b, rfl⟩ : ∃ n, ∃ b : Bool, v = 2 * n + b.toNat :=
      ⟨v / 2, v.testBit 0, by rw [Nat.toNat_testBit, Nat.pow_zero, Nat.div_one, Nat.div_add_mod]⟩
    rw [bitsMsb_double, natOfBits_concat, ih (by rw [Nat.pow_succ] at fits; omega)]

/-- A number whose bits begin another's is that number without its last bits (30 R61). -/
theorem bounds_of_bitsMsb_isPrefix {v v' w w' : Nat} (fits : v < 2 ^ w) (fits' : v' < 2 ^ w')
    (h : bitsMsb v w <+: bitsMsb v' w') :
    w ≤ w' ∧ v * 2 ^ (w' - w) ≤ v' ∧ v' < (v + 1) * 2 ^ (w' - w) := by
  obtain ⟨rest, bits⟩ := h
  have width : w + rest.length = w' := by simpa using congrArg List.length bits
  have value := congrArg natOfBits bits
  rw [natOfBits_append, natOfBits_bitsMsb fits, natOfBits_bitsMsb fits'] at value
  have small := natOfBits_lt rest
  rw [← width, Nat.add_sub_cancel_left, Nat.succ_mul]
  omega

/-- Where the bits of one code begin another's, the other's strings begin among its own (44 R116). -/
theorem codeLow_bounds_of_isPrefix {depth : List Byte} {s t c c' : Nat} (fits : c < 2 ^ depthAt depth s)
    (fits' : c' < 2 ^ depthAt depth t) (h : bitsMsb c (depthAt depth s) <+: bitsMsb c' (depthAt depth t)) :
    codeLow depth (s, c) ≤ codeLow depth (t, c') ∧ codeLow depth (t, c') < codeHigh depth (s, c) := by
  obtain ⟨shorter, above, below⟩ := bounds_of_bitsMsb_isPrefix fits fits' h
  rw [codeLow, codeHigh, codeLow, codeShare_eq_mul shorter, ← Nat.mul_assoc, ← Nat.mul_assoc]
  exact ⟨Nat.mul_le_mul_right _ above, Nat.mul_lt_mul_of_pos_right below (Nat.two_pow_pos _)⟩

/-- The bits of a code that fits its length do not begin a code whose strings are apart from its own (44 R116). -/
theorem not_isPrefix_of_codesApart {depth : List Byte} {s t c c' : Nat} (fits : c < 2 ^ depthAt depth s)
    (fits' : c' < 2 ^ depthAt depth t) (apart : CodesApart depth (s, c) (t, c')) :
    ¬ (bitsMsb c (depthAt depth s) <+: bitsMsb c' (depthAt depth t)) := by
  intro h
  obtain ⟨above, below⟩ := codeLow_bounds_of_isPrefix fits fits' h
  have share : 0 < codeShare depth t := Nat.two_pow_pos _
  have ends : codeHigh depth (t, c') = codeLow depth (t, c') + codeShare depth t := codeHigh_eq_add depth (t, c')
  rcases apart with before | after <;> omega

/-- A code fits its length where the depth sum is at most 1 (44 R116). -/
theorem code_lt_of_depthSum_le {depth : List Byte} (kraft : depthSum depth ≤ 2 ^ depthMax) {s c : Nat}
    (h : (s, c) ∈ assigned depth) : c < 2 ^ depthAt depth s := by
  have fits := (codeHigh_le_depthSum h).trans kraft
  have whole : (2 : Nat) ^ depthMax = 2 ^ depthAt depth s * codeShare depth s := by
    rw [codeShare, ← Nat.pow_add, Nat.add_sub_cancel' (depthAt_le_depthMax depth s)]
  rw [codeHigh, whole] at fits
  exact Nat.le_of_mul_le_mul_right fits (Nat.two_pow_pos _)

/-- With no clamp the depth sum is at most 1, whatever the number of used symbols (43 R113). -/
theorem depthSum_le_of_unclamped {freq : List Nat} (unclamped : (buildFromFreq freq).clamped = false) :
    depthSum (buildFromFreq freq).depth ≤ 2 ^ depthMax := by
  obtain ⟨many, one⟩ := depthSumIsOne freq unclamped
  rcases Nat.lt_or_ge (usedSymbols freq).length 2 with few | two
  · rcases Nat.eq_zero_or_pos (usedSymbols freq).length with unused | lone
    · rw [depthSum, codedSymbols_buildFromFreq, List.length_eq_zero_iff.mp unused]
      simp
    · rw [one (by omega)]
      exact Nat.pow_le_pow_right Nat.two_pos (Nat.le_succ 254)
  · exact (many two).le

/-- A symbol with a depth has its entry of the code table as its assigned code (44 R115). -/
theorem mem_assigned_of_mem_codedSymbols {depth : List Byte} {s : Nat} (h : s ∈ codedSymbols depth) :
    (s, codeAt (assignCodes depth) s) ∈ assigned depth := by
  obtain ⟨sc, hmem, rfl⟩ := List.mem_map.mp ((assigned_symbols_perm depth).symm.subset h)
  rwa [codeAt_assignCodes hmem]

/-- Settles O54: the depth sum bounds the codes, and the strings that begin with one code begin with no other. -/
theorem codesAreBeginningFree : Obligations.CodesAreBeginningFree := by
  intro freq unclamped depth code s hs
  have kraft : depthSum depth ≤ 2 ^ depthMax := depthSum_le_of_unclamped unclamped
  have assignedTo : ∀ {s}, s ∈ codedSymbols depth → (s, codeAt code s) ∈ assigned depth :=
    mem_assigned_of_mem_codedSymbols
  have fits : ∀ {s}, s ∈ codedSymbols depth → codeAt code s < 2 ^ depthAt depth s := fun h =>
    code_lt_of_depthSum_le kraft (assignedTo h)
  refine ⟨fits hs, fun t ht ne => ?_⟩
  have apart := codesApart_of_mem_assigned (assignedTo hs) (assignedTo ht) fun same => ne (congrArg Prod.fst same)
  exact not_isPrefix_of_codesApart (fits hs) (fits ht) apart

end Sys2Proof.Machine
end

section
/-! The bit count by frequencies (45 R125): a record adds one to its own symbol's counter and its depth to the sum. -/

namespace Sys2Proof.Machine

/-- COUNT adds one to the counter of each record's symbol (43 R101). -/
theorem freqAt_count_cons (m : Match) (s : List Match) {i : Nat} (h : i < alphabet) :
    freqAt (count (m :: s)) i = freqAt (count s) i + if m.sym.toNat = i then 1 else 0 := by
  simp [freqAt_count _ i h, List.countP_cons]

/-- The sum of frequency times depth over the symbols (45 R125). -/
def freqDepthSum (depth : List Byte) (s : List Match) : Nat :=
  ((List.range alphabet).map fun i => freqAt (count s) i * depthAt depth i).sum

/-- With no record every frequency is 0 (43 R101). -/
theorem freqDepthSum_nil (depth : List Byte) : freqDepthSum depth [] = 0 := by
  refine List.sum_eq_zero fun x hx => ?_
  obtain ⟨i, hi, rfl⟩ := List.mem_map.mp hx
  rw [freqAt_count [] i (List.mem_range.mp hi), List.countP_nil, Nat.zero_mul]

/-- A record adds the depth of its symbol to the sum (43 R101, 45 R125). -/
theorem freqDepthSum_cons (depth : List Byte) (m : Match) (s : List Match) :
    freqDepthSum depth (m :: s) = depthAt depth m.sym.toNat + freqDepthSum depth s := by
  have inAlphabet : m.sym.toNat ∈ Finset.range alphabet := Finset.mem_range.mpr m.sym.isLt
  calc freqDepthSum depth (m :: s)
      = ∑ i ∈ Finset.range alphabet, freqAt (count (m :: s)) i * depthAt depth i := rfl
    _ = ∑ i ∈ Finset.range alphabet,
          ((if m.sym.toNat = i then depthAt depth i else 0) + freqAt (count s) i * depthAt depth i) := by
        refine Finset.sum_congr rfl fun i hi => ?_
        rw [freqAt_count_cons m s (Finset.mem_range.mp hi), Nat.add_mul, ite_mul, Nat.one_mul, Nat.zero_mul,
          Nat.add_comm]
    _ = depthAt depth m.sym.toNat + freqDepthSum depth s := by
        rw [Finset.sum_add_distrib, Finset.sum_ite_eq, if_pos inAlphabet]
        rfl

/-- A record adds its token's bits to the bit count (45 R125). -/
theorem nbits_cons (depth : List Byte) (m : Match) (s : List Match) :
    nbits depth (m :: s) = tokenBits depth m + nbits depth s := List.sum_cons

/-- Settles O57, by induction on the records: each adds its symbol's depth to both sums, and a backreference adds 12. -/
theorem bitCountFollowsFromFrequencies : Obligations.BitCountFollowsFromFrequencies := by
  intro depth s
  change nbits depth s = freqDepthSum depth s + 12 * (s.filter Match.isRef).length
  induction s with
  | nil => rw [freqDepthSum_nil]; rfl
  | cons m s ih =>
    rw [nbits_cons, ih, freqDepthSum_cons, tokenBits]
    cases m with
    | lit v =>
      rw [List.filter_cons_of_neg (by simp [Match.isRef])]
      simp [Match.isRef, Nat.add_assoc]
    | ref v f =>
      rw [List.filter_cons_of_pos rfl, List.length_cons]
      simp only [Match.isRef, offsetBits, if_true]
      omega

end Sys2Proof.Machine
end

section
/-! The fields of the container, read back from its bytes (20 R40, 46 R127 to R134). -/

namespace Sys2Proof.Machine

theorem u32At_eq_wordOfLanes (c : List Byte) (i : Nat) :
    u32At c i = wordOfLanes (c.getD i 0#8) (c.getD (i + 1) 0#8) (c.getD (i + 2) 0#8) (c.getD (i + 3) 0#8) := rfl

/-- A u32 is read back where its four bytes stand (00 R12, 20 R40). -/
theorem u32At_append_u32le (pre post : List Byte) (v : Word) : u32At (pre ++ (u32le v ++ post)) pre.length = v := by
  have lane : ∀ j, (pre ++ (u32le v ++ post)).getD (pre.length + j) 0#8 = (u32le v ++ post).getD j 0#8 := fun j =>
    (List.getD_append_right pre _ 0#8 (pre.length + j) (Nat.le_add_right _ _)).trans
      (by rw [Nat.add_sub_cancel_left])
  calc u32At (pre ++ (u32le v ++ post)) pre.length
      = wordOfLanes (laneOf v 0) (laneOf v 1) (laneOf v 2) (laneOf v 3) := by
        rw [u32At_eq_wordOfLanes, lane 1, lane 2, lane 3, ← Nat.add_zero pre.length, lane 0]
        rfl
    _ = v := wordOfLanes_laneOf v

/-- The depth table of a payload's records (43 R112). -/
def payloadDepths (p : List Byte) : List Byte := (buildDepths (findMatches p)).depth

theorem payloadDepths_length (p : List Byte) : (payloadDepths p).length = alphabet := buildDepths_depth_length _

/-- The bitstream of a payload's records (45 R125). -/
def payloadStream (p : List Byte) : List Byte := pack (findMatches p) (assignCodes (payloadDepths p)) (payloadDepths p)

/-- The three parts of the container (46 R127 to R133). -/
theorem container_eq (p : List Byte) (k : Word) :
    (encodePayload p k).container =
      header k p.length (findMatches p).length ++ (ksEncrypt (payloadDepths p) (ksSeq k) ++ payloadStream p) := by
  simp only [encodePayload, assemble, runUnits, payloadDepths, payloadStream, pack, List.append_assoc]

/-- The container field by field (46 R127 to R133). -/
theorem container_fields (p : List Byte) (k : Word) :
    (encodePayload p k).container =
      tag ++ (u32le k ++ (u32le (BitVec.ofNat 32 p.length) ++ (u32le (BitVec.ofNat 32 (findMatches p).length) ++
        (u32le 0#32 ++ (ksEncrypt (payloadDepths p) (ksSeq k) ++ payloadStream p))))) := by
  simp only [container_eq, header, List.append_assoc]

theorem encodePayload_symCount (p : List Byte) (k : Word) :
    (encodePayload p k).symCount = (findMatches p).length := rfl

theorem encryptedDepths_length (p : List Byte) (k : Word) :
    (ksEncrypt (payloadDepths p) (ksSeq k)).length = alphabet := by
  rw [ksEncrypt_length, payloadDepths_length, ksSeq_length]
  rfl

/-- The container starts with the tag (46 R127). -/
theorem container_take_tag (p : List Byte) (k : Word) : (encodePayload p k).container.take 16 = tag := by
  rw [container_fields]
  exact List.take_left' tag_length

/-- The key stands at byte 16 (46 R128). -/
theorem u32At_container_key (p : List Byte) (k : Word) : u32At (encodePayload p k).container 16 = k := by
  rw [container_fields]
  exact u32At_append_u32le tag _ k

/-- The payload length stands at byte 20 (46 R129). -/
theorem u32At_container_size (p : List Byte) (k : Word) :
    u32At (encodePayload p k).container 20 = BitVec.ofNat 32 p.length := by
  rw [container_fields, ← List.append_assoc tag]
  exact u32At_append_u32le (tag ++ u32le k) _ _

/-- The number of records stands at byte 24 (46 R130). -/
theorem u32At_container_symCount (p : List Byte) (k : Word) :
    u32At (encodePayload p k).container 24 = BitVec.ofNat 32 (findMatches p).length := by
  rw [container_fields, ← List.append_assoc tag, ← List.append_assoc (tag ++ _)]
  exact u32At_append_u32le (tag ++ u32le k ++ u32le (BitVec.ofNat 32 p.length)) _ _

theorem header_drop_zeros (k : Word) (size symCount : Nat) :
    (header k size symCount).drop 28 = [0#8, 0#8, 0#8, 0#8] := rfl

/-- After the header come the encrypted depth table and the bitstream (46 R131 to R133). -/
theorem container_drop_header (p : List Byte) (k : Word) :
    (encodePayload p k).container.drop 32 = ksEncrypt (payloadDepths p) (ksSeq k) ++ payloadStream p := by
  rw [container_eq]
  exact List.drop_left' (header_length _ _ _)

/-- The bitstream is everything from byte 544 on (46 R133). -/
theorem container_drop_stream (p : List Byte) (k : Word) :
    (encodePayload p k).container.drop 544 = payloadStream p := by
  rw [show 544 = 32 + alphabet from rfl, ← List.drop_drop, container_drop_header]
  exact List.drop_left' (encryptedDepths_length p k)

end Sys2Proof.Machine
end

section
/-! The container's layout (46 R127 to R134). -/

namespace Sys2Proof.Machine

/-- The size field of an accepted payload is its length: a u32 holds it (46 R129). -/
theorem u32At_container_size_toNat {p : List Byte} (k : Word) (short : p.length ≤ 2 ^ 30) :
    (u32At (encodePayload p k).container 20).toNat = p.length := by
  rw [u32At_container_size, BitVec.toNat_ofNat]
  omega

/-- The symbol count field of an accepted payload is the number of its records (46 R130). -/
theorem u32At_container_symCount_toNat {p : List Byte} (k : Word) (short : p.length ≤ 2 ^ 30) :
    (u32At (encodePayload p k).container 24).toNat = (findMatches p).length := by
  have := findMatches_length_le p
  rw [u32At_container_symCount, BitVec.toNat_ofNat]
  omega

/-- Bytes 28 to 31 are zero (46 R131). -/
theorem container_zeros (p : List Byte) (k : Word) :
    ((encodePayload p k).container.drop 28).take 4 = [0#8, 0#8, 0#8, 0#8] := by
  rw [container_eq, List.drop_append_of_le_length (by rw [header_length]; decide), header_drop_zeros]
  rfl

/-- Each entry of the encrypted table is the depth plus the keystream byte (41 R90). -/
theorem ksEncrypt_getElem? {depth ks : List Byte} {i : Nat} (hd : i < depth.length) (hk : i < ks.length) :
    (ksEncrypt depth ks)[i]? = some (depth.getD i 0#8 + ks.getD i 0#8) := by
  rw [ksEncrypt, List.getElem?_zipWith, List.getElem?_eq_getElem hd, List.getElem?_eq_getElem hk,
    List.getD_eq_getElem _ _ hd, List.getD_eq_getElem _ _ hk]

/-- Settles O58: the container is its header, the encrypted depth table and the bitstream, and the header's fields stand
side by side. -/
theorem containerHasItsLayout : Obligations.ContainerHasItsLayout := by
  intro p k cont depth
  refine ⟨container_take_tag p k, u32At_container_key p k,
    fun short => ⟨u32At_container_size_toNat k short, u32At_container_symCount_toNat k short⟩,
    container_zeros p k, fun i hi => ?_, container_drop_stream p k, ?_⟩
  · have inTable : i < (payloadDepths p).length := by rwa [payloadDepths_length]
    have inStream : i < (ksSeq k).length := by
      rw [ksSeq_length]
      exact hi
    rw [container_getElem?_depthTable p k hi, runUnits_depth]
    exact ksEncrypt_getElem? inTable inStream
  · obtain ⟨-, bytes⟩ := bitstreamIsTheTokens (assignCodes depth) depth (findMatches p)
    rw [container_length, ← bytes]
    rfl

end Sys2Proof.Machine
end

section
/-! The codes of a run's tables are read back bit by bit (30 R62, 44 R116). -/

namespace Sys2Proof.Machine

/-- The bits of a symbol's code (30 R61). -/
def codeBits (code : List Nat) (depth : List Byte) (s : Nat) : List Bool := bitsMsb (codeAt code s) (depthAt depth s)

/-- The reader stops at a bit that completes a code, and goes on after any other (30 R62). The tables are generalized before
the match is reduced, so that the search over the 512 symbols is not evaluated. -/
theorem readCode_cons (code : List Nat) (depth : List Byte) (n v : Nat) (b : Bool) (bs : List Bool) :
    readCode code depth n v (b :: bs) =
      (symbolOf code depth (n + 1) (2 * v + b.toNat)).elim (readCode code depth (n + 1) (2 * v + b.toNat) bs)
        fun s => some (s, bs) := by
  delta readCode readCode._f
  generalize symbolOf code depth = find
  cases h : find (n + 1) (2 * v + b.toNat) with
  | none => simp only [h, Option.elim_none]
  | some s => simp only [h, Option.elim_some]

/-- Every code fits its length, and none is the beginning of another (44 R116). -/
structure BeginningFree (code : List Nat) (depth : List Byte) : Prop where
  fits : ∀ s, s ∈ codedSymbols depth → codeAt code s < 2 ^ depthAt depth s
  apart : ∀ s, s ∈ codedSymbols depth → ∀ t, t ∈ codedSymbols depth → s ≠ t →
    ¬ (codeBits code depth s <+: codeBits code depth t)

theorem beginningFree_of_unclamped {freq : List Nat} (unclamped : (buildFromFreq freq).clamped = false) :
    BeginningFree (assignCodes (buildFromFreq freq).depth) (buildFromFreq freq).depth where
  fits s hs := (codesAreBeginningFree freq unclamped s hs).1
  apart s hs := (codesAreBeginningFree freq unclamped s hs).2

/-- The codes of an accepted payload are never clamped (43 R111). -/
theorem beginningFree_payloadDepths {p : List Byte} (short : p.length ≤ 2 ^ 30) :
    BeginningFree (assignCodes (payloadDepths p)) (payloadDepths p) :=
  beginningFree_of_unclamped (clamped_eq_false_iff.mpr fun _ => rawDepth_le_of_payload short)

namespace BeginningFree

variable {code : List Nat} {depth : List Byte}

/-- A code's bits are known by their number and their value (30 R61, R62). -/
theorem codeBits_eq_iff (h : BeginningFree code depth) {s : Nat} (hs : s ∈ codedSymbols depth) {bits : List Bool} :
    codeBits code depth s = bits ↔ depthAt depth s = bits.length ∧ codeAt code s = natOfBits bits := by
  constructor
  · rintro rfl
    exact ⟨(bitsMsb_length _ _).symm, (natOfBits_bitsMsb (h.fits s hs)).symm⟩
  · rintro ⟨len, value⟩
    rw [codeBits, len, value, bitsMsb_natOfBits]

/-- Only the symbol whose code was read is found (30 R62). -/
theorem codeBits_of_symbolOf (h : BeginningFree code depth) {bits : List Bool} {t : Nat}
    (found : symbolOf code depth bits.length (natOfBits bits) = some t) :
    t ∈ codedSymbols depth ∧ codeBits code depth t = bits := by
  rw [symbolOf] at found
  have coded : t ∈ codedSymbols depth := List.mem_of_find?_eq_some found
  have key := List.find?_some (p := fun s => depthAt depth s == bits.length && codeAt code s == natOfBits bits) found
  rw [Bool.and_eq_true, beq_iff_eq, beq_iff_eq] at key
  exact ⟨coded, (h.codeBits_eq_iff coded).mpr key⟩

/-- The bits of a whole code give its symbol, as no other symbol has this code (44 R116). -/
theorem symbolOf_codeBits (h : BeginningFree code depth) {s : Nat} (hs : s ∈ codedSymbols depth) :
    symbolOf code depth (codeBits code depth s).length (natOfBits (codeBits code depth s)) = some s := by
  cases found : symbolOf code depth (codeBits code depth s).length (natOfBits (codeBits code depth s)) with
  | none =>
    have miss := List.find?_eq_none.mp found s hs
    rw [Bool.and_eq_true, beq_iff_eq, beq_iff_eq] at miss
    exact absurd ((h.codeBits_eq_iff hs).mp rfl) miss
  | some t =>
    obtain ⟨coded, same⟩ := h.codeBits_of_symbolOf found
    refine congrArg some ?_
    by_contra ne
    exact h.apart t coded s hs ne (same ▸ ⟨[], List.append_nil _⟩)

/-- The bits of a code that is not yet whole give no symbol, as no code begins another (44 R116). -/
theorem symbolOf_of_begins (h : BeginningFree code depth) {s : Nat} (hs : s ∈ codedSymbols depth)
    {bits rest : List Bool} (unfinished : rest ≠ []) (split : bits ++ rest = codeBits code depth s) :
    symbolOf code depth bits.length (natOfBits bits) = none := by
  cases found : symbolOf code depth bits.length (natOfBits bits) with
  | none => rfl
  | some t =>
    obtain ⟨coded, rfl⟩ := h.codeBits_of_symbolOf found
    by_cases same : t = s
    · subst same
      exact absurd (List.append_right_eq_self.mp split) unfinished
    · exact absurd ⟨rest, split⟩ (h.apart t coded s hs same)

/-- With some bits of a code read, the reader goes on to the end of the code and no further (30 R62, 46 R137). -/
theorem readCode_of_begins (h : BeginningFree code depth) {s : Nat} (hs : s ∈ codedSymbols depth)
    {bits rest : List Bool} (unfinished : rest ≠ []) (split : bits ++ rest = codeBits code depth s) (post : List Bool) :
    readCode code depth bits.length (natOfBits bits) (rest ++ post) = some (s, post) := by
  induction rest generalizing bits with
  | nil => exact (unfinished rfl).elim
  | cons b rest ih =>
    have split' : (bits ++ [b]) ++ rest = codeBits code depth s := by rwa [List.append_assoc]
    have read : bits.length + 1 = (bits ++ [b]).length := (List.length_append (bs := [b])).symm
    rw [List.cons_append, readCode_cons, read, ← natOfBits_concat]
    by_cases whole : rest = []
    · subst whole
      rw [List.append_nil] at split'
      rw [split', h.symbolOf_codeBits hs, Option.elim_some, List.nil_append]
    · rw [h.symbolOf_of_begins hs whole split', Option.elim_none]
      exact ih whole split'

/-- A code is read back as its symbol (30 R62). -/
theorem readCode_codeBits (h : BeginningFree code depth) {s : Nat} (hs : s ∈ codedSymbols depth) (post : List Bool) :
    readCode code depth 0 0 (codeBits code depth s ++ post) = some (s, post) := by
  have nonempty : codeBits code depth s ≠ [] := by
    refine List.ne_nil_of_length_pos ?_
    rw [codeBits, bitsMsb_length]
    exact (mem_codedSymbols.mp hs).2
  exact h.readCode_of_begins (bits := []) hs nonempty rfl post

end BeginningFree

end Sys2Proof.Machine
end

section
/-! The tokens of a symbol sequence are read back (30 R62, 45 R126). -/

namespace Sys2Proof.Machine

/-- The bits of a record after its code (30 R61). -/
def offsetField : Match → List Bool
  | .lit _ => []
  | .ref _ f => bitsMsb f.toNat offsetBits

/-- A token is the code of its symbol and then the offset field (30 R61). -/
theorem token_eq (code : List Nat) (depth : List Byte) (m : Match) :
    token code depth m = codeBits code depth m.sym.toNat ++ offsetField m := by
  cases m with
  | lit v => exact (List.append_nil _).symm
  | ref v f => rfl

/-- The symbol and the offset field make up the record (30 R57, R58, R60). -/
theorem readOffset_offsetField (m : Match) (post : List Bool) :
    readOffset m.sym.toNat (offsetField m ++ post) = some (m, post) := by
  cases m with
  | lit v =>
    have hv : v.toNat < 256 := v.isLt
    rw [Match.sym_lit_toNat, readOffset, if_pos hv, BitVec.ofNat_toNat, BitVec.setWidth_eq]
    rfl
  | ref v f =>
    have width : (bitsMsb f.toNat offsetBits).length = offsetBits := bitsMsb_length _ _
    have value : natOfBits (bitsMsb f.toNat offsetBits) = f.toNat := natOfBits_bitsMsb f.isLt
    have enough : offsetBits ≤ (bitsMsb f.toNat offsetBits ++ post).length := by
      rw [List.length_append, width]
      exact Nat.le_add_right _ _
    rw [Match.sym_ref_toNat, readOffset, if_neg (by omega), offsetField, if_pos enough, List.take_left' width,
      List.drop_left' width, value, Nat.add_sub_cancel_left, BitVec.ofNat_toNat,
      BitVec.ofNat_toNat, BitVec.setWidth_eq, BitVec.setWidth_eq]

namespace BeginningFree

variable {code : List Nat} {depth : List Byte}

theorem readToken_token (h : BeginningFree code depth) {m : Match} (hm : m.sym.toNat ∈ codedSymbols depth)
    (post : List Bool) : readToken code depth (token code depth m ++ post) = some (m, post) := by
  rw [token_eq, List.append_assoc, readToken, h.readCode_codeBits hm, Option.bind_some, readOffset_offsetField]

/-- Reading as many tokens as there are records gives the records back, and leaves the bits after them (45 R126). -/
theorem readTokens_flatMap_token (h : BeginningFree code depth) {s : List Match}
    (coded : ∀ m, m ∈ s → m.sym.toNat ∈ codedSymbols depth) (post : List Bool) :
    readTokens code depth s.length (s.flatMap (token code depth) ++ post) = some (s, post) := by
  induction s with
  | nil => rfl
  | cons m s ih =>
    rw [List.length_cons, readTokens, List.flatMap_cons, List.append_assoc,
      h.readToken_token (coded m List.mem_cons_self), Option.bind_some,
      ih fun m' hm' => coded m' (List.mem_cons_of_mem m hm'), Option.map_some]

end BeginningFree

end Sys2Proof.Machine
end

section
/-! DECODE gives the payload back (46 R137). -/

namespace Sys2Proof.Machine

/-- The symbol of each record has a code (43 R101, R108). -/
theorem sym_mem_codedSymbols {p : List Byte} {m : Match} (h : m ∈ findMatches p) :
    m.sym.toNat ∈ codedSymbols (payloadDepths p) := by
  have inAlphabet : m.sym.toNat < alphabet := m.sym.isLt
  rw [payloadDepths, buildDepths, codedSymbols_buildFromFreq, mem_usedSymbols, freqAt_count _ _ inAlphabet,
    List.countP_pos_iff]
  exact ⟨inAlphabet, m, h, beq_self_eq_true _⟩

/-- Decrypting the container's table with its own key gives the depths of the encoder (41 R91). -/
theorem depthsOf_container (p : List Byte) (k : Word) : depthsOf (encodePayload p k).container = payloadDepths p := by
  rw [depthsOf, u32At_container_key, container_drop_header, List.take_left' (encryptedDepths_length p k)]
  exact keystreamRecoversDepths _ k (payloadDepths_length p)

/-- Settles O59: the decoder finds the encoder's depths, so its codes, with which the tokens read back as the records, and
their replay is the payload. -/
theorem decodeOfContainerIsPayload : Obligations.DecodeOfContainerIsPayload := by
  intro p k short
  obtain ⟨⟨pad, -, bits⟩, -⟩ := bitstreamIsTheTokens (assignCodes (payloadDepths p)) (payloadDepths p) (findMatches p)
  obtain ⟨-, -, -, -, -, replayed⟩ := parseIsValid p
  rw [decodeContainer, if_pos (container_take_tag p k), depthsOf_container, u32At_container_symCount_toNat k short,
    container_drop_stream, payloadStream, bits,
    (beginningFree_payloadDepths short).readTokens_flatMap_token fun _ => sym_mem_codedSymbols, Option.bind_some,
    replayed, Option.bind_some, if_pos (u32At_container_size_toNat k short).symm]

end Sys2Proof.Machine
end

section
/-! The end of a run that fits (46 R136). -/

namespace Sys2Proof.Machine

theorem State.payload_length (s : State) : s.payload.length = s.srcLen.toNat := by
  rw [State.payload, List.length_map, List.length_range]

/-- The engine's turn in a run that fits: the six units run, and their container is delivered (46 R136). -/
theorem step_of_engine_fits {s : State} {rest : List Event} (head : s.agenda = .engine :: rest)
    (running : s.busy = true) (payloadFits : s.srcLen.toNat ≤ s.params.ibufSize.toNat)
    (containerFits : (encodePayload s.payload s.key).container.length ≤ s.params.obufSize.toNat) :
    step s = .next (State.finishRun { s with agenda := rest, work := runUnits s.payload s.key }
      (encodePayload s.payload s.key)) := by
  rw [step_completes head running, State.complete_fits s.advance payloadFits containerFits,
    State.advance_of_agenda_cons head]
  rfl

/-- Settles O35: the step is the successful end of the run, whose counts are below `2^32`: OUT_LEN is at most OBUF_SIZE, and
SYM_COUNT at most SRC_LEN. -/
theorem completionDeliversContainer : Obligations.CompletionDeliversContainer := by
  intro s rest head running payloadFits containerFits
  have outLen : (BitVec.ofNat 32 (encodePayload s.payload s.key).container.length).toNat =
      (encodePayload s.payload s.key).container.length :=
    (BitVec.toNat_ofNat _ _).trans (Nat.mod_eq_of_lt (containerFits.trans_lt s.params.obufSize.isLt))
  have records : (findMatches s.payload).length < 2 ^ 32 :=
    ((findMatches_length_le s.payload).trans_eq s.payload_length).trans_lt s.srcLen.isLt
  refine ⟨_, step_of_engine_fits head running payloadFits containerFits, rfl, ?_, ?_, fun a below => ?_,
    fun a beyond => ?_⟩
  · rw [State.finishRun_symCount, encodePayload_symCount, BitVec.toNat_ofNat, Nat.mod_eq_of_lt records]
  · rw [State.finishRun_outLen, outLen]
  · rw [State.finishRun_outLen, outLen] at below
    rw [State.finishRun_obuf, Memory.byteAt_setFront, if_pos below]
  · rw [State.finishRun_outLen, outLen] at beyond
    rw [State.finishRun_obuf, Memory.byteAt_setFront, if_neg (Nat.not_lt.mpr beyond)]

end Sys2Proof.Machine
end

section
/-! What ends in an AccessError (60 R138): the rows of the access map that raise it, and the addresses that select them. -/

namespace Sys2Proof.Machine

/-- Settles O10: each of the four raises an AccessError, and that changes ACCERR and the response alone. -/
theorem accessErrorRowsAnswerErr : Obligations.AccessErrorRowsAnswerErr := by
  intro s acc r off
  exact ⟨next_accessError s .reservedRegion, next_accessError s .misaligned, next_accessError s .unallocated,
    next_accessError s .outOfRange⟩

/-- The fields REGION and OFF of an access that no register and no buffer byte stands behind (20 R38, R43, 10 R18). -/
def IllegalAddress (p : Params) (r : Region) (off : Off30) : Prop :=
  r = .reserved ∨ wordAligned off = false ∨ (r = .csr ∧ 0x20 < off.toNat) ∨
    (r = .ibuf ∧ p.ibufSize.toNat ≤ off.toNat) ∨ (r = .obuf ∧ p.obufSize.toNat ≤ off.toNat)

/-- Row 4 for IBUF (30 R69). -/
theorem decodeIbuf_beyond {p : Params} {off : Off30} (acc : Access) (beyond : p.ibufSize.toNat ≤ off.toNat) :
    decodeIbuf p acc off = .accErrOutOfRange acc .ibuf off := if_pos beyond

/-- Row 4 for OBUF (30 R69). -/
theorem decodeObuf_beyond {p : Params} {off : Off30} (acc : Access) (beyond : p.obufSize.toNat ≤ off.toNat) :
    decodeObuf p acc off = .accErrOutOfRange acc .obuf off := if_pos beyond

/-- An illegal address selects one of the rows 1 to 4, whichever of its faults comes first (30 R69). -/
theorem exec_decode_of_illegalAddress {p : Params} {r : Region} {off : Off30} (h : IllegalAddress p r off) (acc : Access)
    (s : State) :
    exec (decode p (.haw (mkHaw acc r off))) s = .next { s with accErr := true, resp := .err 0#32 } := by
  obtain ⟨reservedRow, misalignedRow, unallocatedRow, outOfRangeRow⟩ := accessErrorRowsAnswerErr s acc r off
  by_cases hr : r = .reserved
  · rw [hr, decode_mkHaw, reservedRow]
  cases aligned : wordAligned off with
  | false => rw [decode_misaligned p acc hr aligned, misalignedRow]
  | true =>
    rcases h with reserved | misaligned | ⟨rfl, above⟩ | ⟨rfl, beyond⟩ | ⟨rfl, beyond⟩
    · exact absurd reserved hr
    · exact absurd (aligned.symm.trans misaligned) (by decide)
    · rw [decode_csr p acc aligned, decodeCsr_above acc off above, unallocatedRow]
    · rw [decode_ibuf p acc aligned, decodeIbuf_beyond acc beyond, outOfRangeRow]
    · rw [decode_obuf p acc aligned, decodeObuf_beyond acc beyond, outOfRangeRow]

/-- REGION is bits 63:62 of the word (30 R66). -/
theorem hawRegion_of_bits {w : BitVec 65} {r : Region} (h : w.extractLsb' 62 2 = r.toBits) : hawRegion w = r := by
  rw [hawRegion, h, Region.ofBits_toBits]

/-- `OFF[1:0]` is bits 33:32 of the word (30 R66). -/
theorem hawOff_misaligned {w : BitVec 65} (h : w.extractLsb' 32 2 ≠ 0b00#2) : wordAligned (hawOff w) = false := by
  have low : (hawOff w).extractLsb' 0 2 = w.extractLsb' 32 2 := by
    ext i hi
    simp [hawOff, show i < 30 by omega]
  rw [← offAligned_eq, offAligned, low]
  exact beq_false_of_ne h

/-- Settles O11: each condition on the word's bits is one on its fields, and an illegal address raises an AccessError. -/
theorem illegalAddressesRaiseAccessError : Obligations.IllegalAddressesRaiseAccessError := by
  intro s w rest head h
  have illegal : IllegalAddress s.params (hawRegion w) (hawOff w) := by
    rcases h with region | low | ⟨region, above⟩ | ⟨region, beyond⟩ | ⟨region, beyond⟩
    · exact .inl (hawRegion_of_bits region)
    · exact .inr (.inl (hawOff_misaligned low))
    · exact .inr (.inr (.inl ⟨hawRegion_of_bits region, above⟩))
    · exact .inr (.inr (.inr (.inl ⟨hawRegion_of_bits region, beyond⟩)))
    · exact .inr (.inr (.inr (.inr ⟨hawRegion_of_bits region, beyond⟩)))
  rw [step_of_issue head, decode_haw_fields, exec_decode_of_illegalAddress illegal, State.advance_of_agenda_cons head]

end Sys2Proof.Machine
end

section
/-! Every step answers (60 R138, R139, R147): the four kinds of step and what each answers (log 5). -/

namespace Sys2Proof.Machine

/-- With nothing on the agenda the engine takes its turn (70 R165). -/
theorem step_of_agenda_nil {s : State} (empty : s.agenda = []) : step s = .next s.engineStep := by
  rw [step, empty]

theorem step_of_engine {s : State} {rest : List Event} (head : s.agenda = .engine :: rest) :
    step s = .next s.advance.engineStep := by
  rw [step, head]

/-- Without a run the engine's turn only takes the agenda's head (10 R14). -/
theorem step_of_engine_idle {s : State} {rest : List Event} (head : s.agenda = .engine :: rest) (idle : s.busy = false) :
    step s = .next s.advance := by
  rcases s.advance.engineStep_cases with ⟨running, -⟩ | ⟨-, heq⟩
  · exact absurd (idle.symm.trans running) (by decide)
  · rw [step_of_engine head, heq]

theorem step_of_hardReset {s : State} {rest : List Event} (head : s.agenda = .hardReset :: rest) :
    step s = .next s.advance.hardReset := by
  rw [step, head]

/-- Every row of the access map and every symbol record has a meaning, and it answers a next state (log 15). -/
theorem exec_answersNext (i : Instr) (s : State) : ∃ t, exec i s = .next t := by
  cases i <;> exact ⟨_, rfl⟩

/-- Settles O8: the engine's turn and hardware reset are total, and so is the execution of every instruction. -/
theorem everyStepAnswersNext : Obligations.EveryStepAnswersNext := by
  intro s
  match head : s.agenda with
  | [] => exact ⟨_, step_of_agenda_nil head⟩
  | .issue c :: _ =>
    obtain ⟨t, answer⟩ := exec_answersNext (decode s.params c) s.advance
    exact ⟨t, (step_of_issue head).trans answer⟩
  | .engine :: _ => exact ⟨_, step_of_engine head⟩
  | .hardReset :: _ => exact ⟨_, step_of_hardReset head⟩

end Sys2Proof.Machine
end

section
/-! The completion step that ends in a RunError (60 R139 to R141), and the interrupt line after every completion step
(60 R143). -/

namespace Sys2Proof.Machine

/-- A payload that does not fit IBUF ends the run in LEN_RANGE before any byte of it is read (60 R140). -/
theorem State.complete_lenRange {s : State} (long : s.params.ibufSize.toNat < s.srcLen.toNat) :
    s.complete = s.runError .lenRange := if_pos long

/-- Settles O36: the step raises LEN_RANGE, which ends the run and unlists OBUF. -/
theorem longPayloadEndsInLenRange : Obligations.LongPayloadEndsInLenRange := by
  intro s rest head running long
  have lenRange := State.complete_lenRange (s := s.advance) long
  refine ⟨s.advance.complete, step_completes head running, ?_, fun a => ?_⟩
  · rw [lenRange, State.advance_of_agenda_cons head]
    rfl
  · rw [lenRange, State.runError_obuf, Memory.byteAt_nil]

/-- Settles O37: the units have run when the container's length is known, so OBUF_OVERFLOW brings the run's counts with
it. -/
theorem longContainerEndsInOverflow : Obligations.LongContainerEndsInOverflow := by
  intro s rest head running payloadFits containerLong
  have overflow := State.complete_overflows s.advance payloadFits containerLong
  refine ⟨s.advance.complete, step_completes head running, ?_, fun a => ?_⟩
  · rw [overflow, State.advance_of_agenda_cons head, ← encodePayload_symCount s.payload s.key]
    rfl
  · rw [overflow, State.runError_obuf, Memory.byteAt_nil]

/-- However a run ends, DONE or ERROR is set, so the line is the interrupt enable (60 R143). -/
theorem State.complete_irq (s : State) : s.complete.irq = s.irqEn := by
  rcases complete_outcome s with lenRange | ⟨u, rfl, ⟨m, n, overflow⟩ | ⟨-, success⟩⟩
  · simp [State.irq, lenRange]
  · simp [State.irq, overflow]
  · simp [State.irq, success]

/-- Settles O38: the line is defined so, and the completion step leaves DONE or ERROR set and IRQ_EN as it was. -/
theorem completionRaisesInterrupt : Obligations.CompletionRaisesInterrupt := by
  refine ⟨fun s => rfl, fun s rest head running enabled => ⟨_, step_completes head running, ?_⟩⟩
  rw [State.complete_irq, State.advance_irqEn, enabled]

end Sys2Proof.Machine
end

section
/-! A soft reset before and after the completion step (60 R146, 70 R157). -/

namespace Sys2Proof.Machine

@[simp] theorem State.complete_params (s : State) : s.complete.params = s.params := by
  rcases complete_outcome s with heq | ⟨u, rfl, ⟨m, n, heq⟩ | ⟨-, heq⟩⟩ <;> simp [heq]

@[simp] theorem State.complete_agenda (s : State) : s.complete.agenda = s.agenda := by
  rcases complete_outcome s with heq | ⟨u, rfl, ⟨m, n, heq⟩ | ⟨-, heq⟩⟩ <;> simp [heq]

/-- Whatever a completion step writes, a soft reset writes again (70 R157). -/
theorem State.softReset_complete (s : State) : s.complete.softReset = s.softReset := by
  rcases complete_outcome s with lenRange | ⟨u, rfl, ⟨m, n, overflow⟩ | ⟨-, success⟩⟩
  · rw [lenRange]
    rfl
  · rw [overflow]
    rfl
  · rw [success]
    rfl

/-- An issued CMD_SOFT_RESET resets the block, during a run or not, and the agenda loses its head (40 R79). -/
theorem step_of_softReset {s : State} {c : CodeWord} {rest : List Event} {d : Word}
    (head : s.agenda = .issue c :: rest) (soft : decode s.params c = .cmdSoftReset d) :
    step s = .next s.softReset.respondOkay.advance := by
  rw [step_of_issue head, soft, exec_cmdSoftReset]
  rfl

theorem core_run_two {s u t : State} (first : step s = .next u) (second : step u = .next t) :
    Sys2Proof.core.run 2 s = .next t :=
  (core_run_succ 1 first).trans (core_run_succ 0 second)

/-- Settles O32: the reset cancels the run, so the engine's turn after it does nothing; and a completion step before it
leaves nothing that it does not overwrite. -/
theorem softResetOrderDoesNotMatter : Obligations.SoftResetOrderDoesNotMatter := by
  intro s c d running soft
  refine ⟨{ s.softReset.respondOkay with agenda := [] }, ?resetFirst, ?engineFirst, rfl, rfl, rfl, rfl⟩
  case resetFirst =>
    exact core_run_two (step_of_softReset (rest := [.engine]) rfl soft) (step_of_engine_idle (rest := []) rfl rfl)
  case engineFirst =>
    refine core_run_two (step_completes (rest := [.issue c]) rfl running) ?_
    rw [step_of_softReset (State.complete_agenda _) (by rw [State.complete_params]; exact soft),
      State.softReset_complete]
    rfl

end Sys2Proof.Machine
end

section
/-! The end of every run (70 R165): a step takes the agenda's head, and the engine completes a run when nothing is left. -/

namespace Sys2Proof.Machine

/-- No operation adds to the agenda or takes from it (log 5). -/
theorem ExecEffect.agenda_eq {s t : State} {i : Instr} (effect : ExecEffect s i t) : t.agenda = s.agenda := by
  cases effect <;> rfl

/-- Every step takes the agenda's head and nothing else of it (log 5). -/
theorem step_agenda {s t : State} (h : step s = .next t) : t.agenda = s.agenda.tail := by
  cases step_effect h with
  | idle => exact s.advance_agenda
  | completed => exact s.advance.complete_agenda
  | issued _ effect => exact effect.agenda_eq
  | hardReset => exact s.advance.hardReset_agenda

/-- After the engine's turn no run is in progress (10 R14). -/
theorem State.engineStep_busy (s : State) : s.engineStep.busy = false := by
  rcases s.engineStep_cases with ⟨-, completed⟩ | ⟨idle, unchanged⟩
  · rw [completed, State.complete_busy]
  · rw [unchanged, idle]

theorem core_run_one {s t : State} (h : step s = .next t) : Sys2Proof.core.run 1 s = .next t := core_run_succ 0 h

/-- Settles O33, by induction on the agenda: an event is taken in one step, and with none left the engine has its turn. -/
theorem everyRunEnds : Obligations.EveryRunEnds := by
  intro s
  generalize events : s.agenda = agenda
  induction agenda generalizing s with
  | nil =>
    have turn := step_of_agenda_nil events
    exact ⟨s.engineStep, core_run_one turn, by rw [step_agenda turn, events, List.tail_nil], s.engineStep_busy⟩
  | cons e rest ih =>
    obtain ⟨u, taken⟩ := everyStepAnswersNext s
    obtain ⟨t, ran, ended⟩ := ih u (by rw [step_agenda taken, events, List.tail_cons])
    exact ⟨t, (core_run_succ _ taken).trans ran, ended⟩

end Sys2Proof.Machine
end

section
/-! What a run is a function of: the payload and the key, and of IBUF only the payload (70 R159, R163, 00 R4). -/

namespace Sys2Proof.Machine

/-- A byte of IBUF as a run reads it is a function of that byte's contents (10 R27, log 2). -/
theorem State.ibufByte_congr {s t : State} (resets : s.resets = t.resets) {i : Nat}
    (byte : s.ibuf.byteAt i = t.ibuf.byteAt i) : s.ibufByte i = t.ibufByte i := by
  rw [State.ibufByte, State.ibufByte, Memory.byteOr, Memory.byteOr, resets, byte]

/-- Only the bytes of IBUF below SRC_LEN are in the payload (10 R23, 70 R163). -/
theorem State.payload_congr_below {s t : State} (srcLen : s.srcLen = t.srcLen) (resets : s.resets = t.resets)
    (bytes : ∀ i, i < s.srcLen.toNat → s.ibuf.byteAt i = t.ibuf.byteAt i) : s.payload = t.payload := by
  rw [State.payload, State.payload, ← srcLen]
  exact List.map_congr_left fun i below => State.ibufByte_congr resets (bytes i (List.mem_range.mp below))

/-- Settles O40: the two states have the same payload. -/
theorem bytesBeyondPayloadDoNotMatter : Obligations.BytesBeyondPayloadDoNotMatter := by
  intro s t srcLen key resets bytes
  rw [State.payload_congr_below srcLen resets bytes, key]

/-- An issued START is accepted by an idle block, and the agenda loses its head (40 R78). -/
theorem step_of_start {s : State} {c : CodeWord} {rest : List Event} {d : Word} (head : s.agenda = .issue c :: rest)
    (idle : s.busy = false) (start : decode s.params c = .cmdStart d) :
    step s = .next (s.startRun d).respondOkay.advance := by
  rw [step_of_issue head, start, exec_cmdStart, State.unlessBusy_idle s.advance _ idle]
  rfl

/-- A START in an idle block and the engine's turn after it end well where the payload and its container fit (40 R78,
46 R136). -/
theorem core_run_start {s : State} {c : CodeWord} {d : Word} (events : s.agenda = [.issue c, .engine])
    (idle : s.busy = false) (start : decode s.params c = .cmdStart d)
    (payloadFits : s.srcLen.toNat ≤ s.params.ibufSize.toNat)
    (containerFits : (encodePayload s.payload s.key).container.length ≤ s.params.obufSize.toNat) :
    ∃ v : State, Sys2Proof.core.run 2 s = .next (v.finishRun (encodePayload s.payload s.key)) := by
  have started := step_of_start events idle start
  have samePayload : (s.startRun d).respondOkay.advance.payload = s.payload := State.payload_congr rfl rfl rfl
  have agenda : (s.startRun d).respondOkay.advance.agenda = [.engine] := by simp [events]
  have completed := step_of_engine_fits agenda rfl payloadFits (by rw [samePayload]; exact containerFits)
  rw [samePayload] at completed
  exact ⟨_, core_run_two started completed⟩

/-- Below OUT_LEN the end of a run leaves the same bytes of OBUF, whatever the run found there (46 R136, 20 R48). -/
theorem State.finishRun_byteAt_eq (s v : State) {e : Encoded} {a : Nat} (below : a < (s.finishRun e).outLen.toNat) :
    (v.finishRun e).obuf.byteAt a = (s.finishRun e).obuf.byteAt a := by
  have inside : a < e.container.length := by
    rw [State.finishRun_outLen, BitVec.toNat_ofNat] at below
    exact below.trans_le (Nat.mod_le _ _)
  rw [State.finishRun_obuf, State.finishRun_obuf, Memory.byteAt_setFront, Memory.byteAt_setFront, if_pos inside,
    if_pos inside]

/-- Settles O39: the first run leaves the key and the payload, so the second, which the START begins, ends with the same
container, and the bytes it leaves do not depend on what was in OBUF. -/
theorem restartRepeatsTheRun : Obligations.RestartRepeatsTheRun := by
  intro s c d running payloadFits containerFits start
  have once := step_of_engine_fits (s := { s with agenda := [.engine] }) rfl running payloadFits containerFits
  have first := step_of_engine_fits (s := { s with agenda := [.engine, .issue c, .engine] }) rfl running payloadFits
    containerFits
  obtain ⟨v, restarted⟩ := core_run_start
    (s := State.finishRun { s with agenda := [.issue c, .engine], work := runUnits s.payload s.key }
      (encodePayload s.payload s.key)) rfl rfl start payloadFits containerFits
  exact ⟨_, _, core_run_one once, (core_run_succ 2 first).trans restarted, rfl, rfl, rfl, rfl,
    fun a below => State.finishRun_byteAt_eq _ v below⟩

end Sys2Proof.Machine
end

section
/-! An idle block, and the state after hardware reset (70 R156, R158). -/

namespace Sys2Proof.Machine

/-- Without a run the engine's turn changes nothing (10 R14). -/
theorem State.engineStep_idle {s : State} (idle : s.busy = false) : s.engineStep = s := by
  rw [State.engineStep, idle]
  exact if_neg Bool.false_ne_true

/-- Settles O6: the engine is given its turn in both cases, and it has no run to complete. -/
theorem idleBlockWaits : Obligations.IdleBlockWaits := by
  refine fun s idle => ⟨fun empty => ?_, fun rest head => ?_⟩
  · rw [step_of_agenda_nil empty, State.engineStep_idle idle]
  · rw [step_of_engine_idle head idle, State.advance_of_agenda_cons head]

/-- Hardware reset clears every flag, so CTRL and STATUS read 0 (70 R158). -/
theorem State.hardReset_words (s : State) : s.hardReset.ctrlWord = 0#32 ∧ s.hardReset.statusWord = 0#32 :=
  ⟨State.ctrlWord_eq_zero s.hardReset_irqEn,
    State.statusWord_eq_zero s.hardReset_busy s.hardReset_done s.hardReset_error s.hardReset_accErr s.hardReset_clamp
      s.hardReset_errCode⟩

/-- Settles O7: the step is the reset on the state with its event taken. -/
theorem hardwareResetClearsBlock : Obligations.HardwareResetClearsBlock := by
  intro s rest head
  obtain ⟨ctrl, status⟩ := s.advance.hardReset_words
  have agenda : s.advance.hardReset.agenda = rest := by
    rw [State.hardReset_agenda, State.advance_of_agenda_cons head]
  exact ⟨s.advance.hardReset, step_of_hardReset head, agenda, rfl, ctrl, status, rfl, rfl, rfl, rfl, rfl, rfl,
    fun a => ⟨rfl, rfl⟩⟩

/-- Settles O26: every flag is 0, so the clauses about a run or its result are vacuous; both buffers are empty, and every
table has its entries. -/
theorem invariantHoldsAtReset : Obligations.InvariantHoldsAtReset := fun p build =>
  { params_wf := build
    not_busy_done := fun ⟨busy, _⟩ => Bool.false_ne_true busy
    not_busy_error := fun ⟨busy, _⟩ => Bool.false_ne_true busy
    not_done_error := fun ⟨done, _⟩ => Bool.false_ne_true done
    errCode_legal := .inl rfl
    errCode_iff := iff_of_false Bool.false_ne_true (not_not_intro rfl)
    clamp_success := fun clamp => absurd clamp Bool.false_ne_true
    running_counts := fun busy => absurd busy Bool.false_ne_true
    ibuf_wf := State.resetWith_ibuf_wf p _
    obuf_wf := State.resetWith_obuf_wf p _
    done_len := fun done => absurd done Bool.false_ne_true
    done_bytes := fun done => absurd done Bool.false_ne_true
    done_tag := fun done => absurd done Bool.false_ne_true
    freq_length := List.length_replicate
    depth_length := List.length_replicate
    code_length := List.length_replicate
    acc_length := Nat.zero_le 7 }

end Sys2Proof.Machine
end
